-- ==== Sys2Proof/Word.lean ====
section
/-! DEFINITION. The widths of the machine's data and their plainest arithmetic (00_scope.md R10, R13). -/

namespace Sys2Proof

/-- A register of V0 to VF, a timer, a memory cell (10_state.md R21, R27, R29). -/
abbrev Byte := BitVec 8

/-- An instruction word, I, PC, a return address (10_state.md R24, R25, R26). -/
abbrev Word := BitVec 16

/-- A register number 0 to 15 (30_encoding.md R74). -/
abbrev Reg := Fin 16

/-- `zext_16` of a byte (00_scope.md R10). -/
abbrev Byte.toWord (b : Byte) : Word := b.setWidth 16

end Sys2Proof
end

