-- ==== Sys2Proof/Syntax.lean ====
section
/-! DEFINITION. The instructions: one constructor for each row of spec/opcode_table.json, in the table's order
(30_encoding.md R76). Operand types are exactly the fields of R72 and R74: `x`, `y`, `n` four bits, `nn` eight, `nnn`
twelve, all unsigned (R73), so every term of `Instr` has a word. -/

namespace Sys2Proof

inductive Instr where
  /-- CLS — clear screen (43_display.md R171). -/
  | cls
  /-- RET — return from subroutine (40_control_flow.md R103). -/
  | ret
  /-- JP nnn — jump (40_control_flow.md R104). -/
  | jp (nnn : BitVec 12)
  /-- CALL nnn — call subroutine (40_control_flow.md R105). -/
  | call (nnn : BitVec 12)
  /-- SE Vx, nn — skip if register equals immediate (40_control_flow.md R106). -/
  | seImm (x : Reg) (nn : Byte)
  /-- SNE Vx, nn — skip if register not equal to immediate (40_control_flow.md R107). -/
  | sneImm (x : Reg) (nn : Byte)
  /-- SE Vx, Vy — skip if registers equal (40_control_flow.md R108). -/
  | seReg (x y : Reg)
  /-- SNE Vx, Vy — skip if registers not equal (40_control_flow.md R109). -/
  | sneReg (x y : Reg)
  /-- LD Vx, nn — load immediate (41_alu.md R121). -/
  | ldImm (x : Reg) (nn : Byte)
  /-- ADD Vx, nn — add immediate (41_alu.md R122). -/
  | addImm (x : Reg) (nn : Byte)
  /-- LD Vx, Vy — copy register (41_alu.md R123). -/
  | ldReg (x y : Reg)
  /-- OR Vx, Vy (41_alu.md R124). -/
  | orReg (x y : Reg)
  /-- AND Vx, Vy (41_alu.md R125). -/
  | andReg (x y : Reg)
  /-- XOR Vx, Vy (41_alu.md R126). -/
  | xorReg (x y : Reg)
  /-- ADD Vx, Vy — add registers with carry (41_alu.md R127). -/
  | addReg (x y : Reg)
  /-- SUB Vx, Vy (41_alu.md R128). -/
  | sub (x y : Reg)
  /-- SHR Vx {, Vy} — shift right by one (41_alu.md R129). -/
  | shr (x y : Reg)
  /-- SUBN Vx, Vy — reverse subtract (41_alu.md R130). -/
  | subn (x y : Reg)
  /-- SHL Vx {, Vy} — shift left by one (41_alu.md R131). -/
  | shl (x y : Reg)
  /-- LD I, nnn — load index (42_index_memory.md R151). -/
  | ldI (nnn : BitVec 12)
  /-- JP V0, nnn — jump with offset (40_control_flow.md R110). -/
  | jpV0 (nnn : BitVec 12)
  /-- RND Vx, nn — random masked (41_alu.md R132). -/
  | rnd (x : Reg) (nn : Byte)
  /-- DRW Vx, Vy, n — draw sprite, `n` rows (43_display.md R172). -/
  | drw (x y : Reg) (n : Fin 16)
  /-- SKP Vx — skip if key pressed (44_keys_timers.md R181). -/
  | skp (x : Reg)
  /-- SKNP Vx — skip if key not pressed (44_keys_timers.md R182). -/
  | sknp (x : Reg)
  /-- LD Vx, DT — read delay timer (44_keys_timers.md R183). -/
  | ldVxDt (x : Reg)
  /-- LD DT, Vx — set delay timer (44_keys_timers.md R184). -/
  | ldDtVx (x : Reg)
  /-- LD ST, Vx — set sound timer (44_keys_timers.md R185). -/
  | ldStVx (x : Reg)
  /-- ADD I, Vx — add register to index (42_index_memory.md R152). -/
  | addI (x : Reg)
  /-- LD F, Vx — point index at a font glyph (42_index_memory.md R153). -/
  | ldF (x : Reg)
  /-- LD B, Vx — store BCD digits (42_index_memory.md R154). -/
  | ldB (x : Reg)
  /-- LD [I], Vx — block store V0 to Vx (42_index_memory.md R155). -/
  | storeRegs (x : Reg)
  /-- LD Vx, [I] — block load V0 to Vx (42_index_memory.md R156). -/
  | loadRegs (x : Reg)
  /-- LD Vx, K — wait for a key (44_keys_timers.md R186). -/
  | ldVxK (x : Reg)
deriving DecidableEq, Repr

end Sys2Proof
end

