-- ==== Sys2Proof/WellFormed.lean ====
section
/-! DEFINITION. The opcode map of 30_encoding.md R76 as data, and what it makes of a word: which words are
instructions at all (R82). `Instr` itself has no ill-formed term (its operand types are the fields); a WORD may be
ill-formed, and then decoding refuses it. -/

namespace Sys2Proof

/-- A row of the opcode map: "A word `w` is the instruction of a row exactly when `w & mask = match`" (R76). -/
structure OpcodeRow where
  mask : Word
  pattern : Word
deriving DecidableEq, Repr

/-- Whether a word is the instruction of this row (R76). -/
def OpcodeRow.admits (r : OpcodeRow) (w : Word) : Bool := w &&& r.mask == r.pattern

/-- The row of R76 each instruction belongs to. -/
def Instr.row : Instr → OpcodeRow
  | .cls => ⟨0xFFFF, 0x00E0⟩
  | .ret => ⟨0xFFFF, 0x00EE⟩
  | .jp _ => ⟨0xF000, 0x1000⟩
  | .call _ => ⟨0xF000, 0x2000⟩
  | .seImm _ _ => ⟨0xF000, 0x3000⟩
  | .sneImm _ _ => ⟨0xF000, 0x4000⟩
  | .seReg _ _ => ⟨0xF00F, 0x5000⟩
  | .sneReg _ _ => ⟨0xF00F, 0x9000⟩
  | .ldImm _ _ => ⟨0xF000, 0x6000⟩
  | .addImm _ _ => ⟨0xF000, 0x7000⟩
  | .ldReg _ _ => ⟨0xF00F, 0x8000⟩
  | .orReg _ _ => ⟨0xF00F, 0x8001⟩
  | .andReg _ _ => ⟨0xF00F, 0x8002⟩
  | .xorReg _ _ => ⟨0xF00F, 0x8003⟩
  | .addReg _ _ => ⟨0xF00F, 0x8004⟩
  | .sub _ _ => ⟨0xF00F, 0x8005⟩
  | .shr _ _ => ⟨0xF00F, 0x8006⟩
  | .subn _ _ => ⟨0xF00F, 0x8007⟩
  | .shl _ _ => ⟨0xF00F, 0x800E⟩
  | .ldI _ => ⟨0xF000, 0xA000⟩
  | .jpV0 _ => ⟨0xF000, 0xB000⟩
  | .rnd _ _ => ⟨0xF000, 0xC000⟩
  | .drw _ _ _ => ⟨0xF000, 0xD000⟩
  | .skp _ => ⟨0xF0FF, 0xE09E⟩
  | .sknp _ => ⟨0xF0FF, 0xE0A1⟩
  | .ldVxDt _ => ⟨0xF0FF, 0xF007⟩
  | .ldDtVx _ => ⟨0xF0FF, 0xF015⟩
  | .ldStVx _ => ⟨0xF0FF, 0xF018⟩
  | .addI _ => ⟨0xF0FF, 0xF01E⟩
  | .ldF _ => ⟨0xF0FF, 0xF029⟩
  | .ldB _ => ⟨0xF0FF, 0xF033⟩
  | .storeRegs _ => ⟨0xF0FF, 0xF055⟩
  | .loadRegs _ => ⟨0xF0FF, 0xF065⟩
  | .ldVxK _ => ⟨0xF0FF, 0xF00A⟩

/-- The 34 rows of R76, in the table's order. -/
def opcodeMap : List OpcodeRow :=
  [⟨0xFFFF, 0x00E0⟩, ⟨0xFFFF, 0x00EE⟩, ⟨0xF000, 0x1000⟩, ⟨0xF000, 0x2000⟩, ⟨0xF000, 0x3000⟩, ⟨0xF000, 0x4000⟩, ⟨0xF00F, 0x5000⟩, ⟨0xF00F, 0x9000⟩] ++
  [⟨0xF000, 0x6000⟩, ⟨0xF000, 0x7000⟩, ⟨0xF00F, 0x8000⟩, ⟨0xF00F, 0x8001⟩, ⟨0xF00F, 0x8002⟩, ⟨0xF00F, 0x8003⟩, ⟨0xF00F, 0x8004⟩, ⟨0xF00F, 0x8005⟩] ++
  [⟨0xF00F, 0x8006⟩, ⟨0xF00F, 0x8007⟩, ⟨0xF00F, 0x800E⟩, ⟨0xF000, 0xA000⟩, ⟨0xF000, 0xB000⟩, ⟨0xF000, 0xC000⟩, ⟨0xF000, 0xD000⟩, ⟨0xF0FF, 0xE09E⟩] ++
  [⟨0xF0FF, 0xE0A1⟩, ⟨0xF0FF, 0xF007⟩, ⟨0xF0FF, 0xF015⟩, ⟨0xF0FF, 0xF018⟩, ⟨0xF0FF, 0xF01E⟩, ⟨0xF0FF, 0xF029⟩, ⟨0xF0FF, 0xF033⟩, ⟨0xF0FF, 0xF055⟩] ++
  [⟨0xF0FF, 0xF065⟩, ⟨0xF0FF, 0xF00A⟩]

/-- A word that some row of R76 admits; every other word is illegal (R82). -/
def WordWellFormed (w : Word) : Bool := opcodeMap.any (·.admits w)

end Sys2Proof
end

