-- ==== Sys2Proof/Decode.lean ====
section
/-! DEFINITION. From words to instructions and back (30_encoding.md R70 to R83): field extraction, the total decoder
by nibble dispatch (R75), the decoder over bytes, the encoder written from the pattern column of R76, and the
word numbering of spec/opcode_table.json. The bit patterns are the spec's own (D3, log 7). -/

namespace Sys2Proof

/-- `op = w[15:12]` (R72). -/
def fieldOp (w : Word) : Nat := (w.extractLsb' 12 4).toNat

/-- `x = w[11:8]`, a register number (R72, R74). -/
def fieldX (w : Word) : Reg := ⟨(w.extractLsb' 8 4).toNat, (w.extractLsb' 8 4).isLt⟩

/-- `y = w[7:4]`, a register number (R72, R74). -/
def fieldY (w : Word) : Reg := ⟨(w.extractLsb' 4 4).toNat, (w.extractLsb' 4 4).isLt⟩

/-- `n = w[3:0]`, a row count or a sub-operation (R72). -/
def fieldN (w : Word) : Fin 16 := ⟨(w.extractLsb' 0 4).toNat, (w.extractLsb' 0 4).isLt⟩

/-- `nn = w[7:0]` (R72). -/
def fieldNN (w : Word) : Byte := w.extractLsb' 0 8

/-- `nnn = w[11:0]` (R72). -/
def fieldNNN (w : Word) : BitVec 12 := w.extractLsb' 0 12

/-- Family 0: exactly two words are instructions (R77). -/
def decodeFamily0 (w : Word) : Option Instr :=
  if w = 0x00E0 then some .cls
  else if w = 0x00EE then some .ret
  else none

/-- Families 5 and 9: the low nibble must be 0 (R78). -/
def decodeLowNibbleZero (w : Word) (i : Instr) : Option Instr :=
  if (fieldN w).val = 0 then some i else none

/-- Family 8, by the low nibble (R79). -/
def decodeFamily8 (w : Word) : Option Instr :=
  match (fieldN w).val with
  | 0x0 => some (.ldReg (fieldX w) (fieldY w))
  | 0x1 => some (.orReg (fieldX w) (fieldY w))
  | 0x2 => some (.andReg (fieldX w) (fieldY w))
  | 0x3 => some (.xorReg (fieldX w) (fieldY w))
  | 0x4 => some (.addReg (fieldX w) (fieldY w))
  | 0x5 => some (.sub (fieldX w) (fieldY w))
  | 0x6 => some (.shr (fieldX w) (fieldY w))
  | 0x7 => some (.subn (fieldX w) (fieldY w))
  | 0xE => some (.shl (fieldX w) (fieldY w))
  | _ => none

/-- Family E, by the low byte (R80). -/
def decodeFamilyE (w : Word) : Option Instr :=
  match (fieldNN w).toNat with
  | 0x9E => some (.skp (fieldX w))
  | 0xA1 => some (.sknp (fieldX w))
  | _ => none

/-- Family F, by the low byte (R81). -/
def decodeFamilyF (w : Word) : Option Instr :=
  match (fieldNN w).toNat with
  | 0x07 => some (.ldVxDt (fieldX w))
  | 0x0A => some (.ldVxK (fieldX w))
  | 0x15 => some (.ldDtVx (fieldX w))
  | 0x18 => some (.ldStVx (fieldX w))
  | 0x1E => some (.addI (fieldX w))
  | 0x29 => some (.ldF (fieldX w))
  | 0x33 => some (.ldB (fieldX w))
  | 0x55 => some (.storeRegs (fieldX w))
  | 0x65 => some (.loadRegs (fieldX w))
  | _ => none

/-- `Decode(w)`: exactly one instruction with its fields, or `none`, the verdict unmapped (R75, R83). -/
def decodeWord (w : Word) : Option Instr :=
  match fieldOp w with
  | 0x0 => decodeFamily0 w
  | 0x1 => some (.jp (fieldNNN w))
  | 0x2 => some (.call (fieldNNN w))
  | 0x3 => some (.seImm (fieldX w) (fieldNN w))
  | 0x4 => some (.sneImm (fieldX w) (fieldNN w))
  | 0x5 => decodeLowNibbleZero w (.seReg (fieldX w) (fieldY w))
  | 0x6 => some (.ldImm (fieldX w) (fieldNN w))
  | 0x7 => some (.addImm (fieldX w) (fieldNN w))
  | 0x8 => decodeFamily8 w
  | 0x9 => decodeLowNibbleZero w (.sneReg (fieldX w) (fieldY w))
  | 0xA => some (.ldI (fieldNNN w))
  | 0xB => some (.jpV0 (fieldNNN w))
  | 0xC => some (.rnd (fieldX w) (fieldNN w))
  | 0xD => some (.drw (fieldX w) (fieldY w) (fieldN w))
  | 0xE => decodeFamilyE w
  | 0xF => decodeFamilyF w
  | _ => none

/-- The 16-bit big-endian word of two bytes: `hi ++ lo`, the byte at the lower address in bits 15:8
(20_memory.md R55). -/
def wordOfBytes (hi lo : Byte) : Word := hi ++ lo

/-- Why a byte string is no instruction. -/
inductive Reject where
  /-- Fewer than the two bytes of an instruction. -/
  | truncated
  /-- Two bytes whose word matches no row of R76 (R82). -/
  | unmapped (w : Word)
deriving DecidableEq, Repr

/-- Decode the instruction at the head of a byte string, giving the rest; total, rejecting by name (R70, R83). -/
def decodeBytes : List Byte → Except Reject (Instr × List Byte)
  | hi :: lo :: rest =>
    match decodeWord (wordOfBytes hi lo) with
    | some i => .ok (i, rest)
    | none => .error (.unmapped (wordOfBytes hi lo))
  | _ => .error .truncated

/-- A word from its fields in format A: `op ++ nnn` (R71). -/
def packA (op : Nat) (nnn : BitVec 12) : Word := BitVec.ofNat 16 (op * 4096 + nnn.toNat)

/-- A word from its fields in format XNN: `op ++ x ++ nn` (R71). -/
def packXNN (op : Nat) (x : Reg) (nn : Byte) : Word := BitVec.ofNat 16 (op * 4096 + x.val * 256 + nn.toNat)

/-- A word from its four nibbles, formats XY and XYN: `op ++ x ++ y ++ n` (R71). -/
def packXYN (op : Nat) (x y : Reg) (n : Fin 16) : Word :=
  BitVec.ofNat 16 (op * 4096 + x.val * 256 + y.val * 16 + n.val)

/-- The word of an instruction: its pattern in R76 with the fields filled in (R88). -/
def encode : Instr → Word
  | .cls => 0x00E0
  | .ret => 0x00EE
  | .jp nnn => packA 0x1 nnn
  | .call nnn => packA 0x2 nnn
  | .seImm x nn => packXNN 0x3 x nn
  | .sneImm x nn => packXNN 0x4 x nn
  | .seReg x y => packXYN 0x5 x y 0x0
  | .sneReg x y => packXYN 0x9 x y 0x0
  | .ldImm x nn => packXNN 0x6 x nn
  | .addImm x nn => packXNN 0x7 x nn
  | .ldReg x y => packXYN 0x8 x y 0x0
  | .orReg x y => packXYN 0x8 x y 0x1
  | .andReg x y => packXYN 0x8 x y 0x2
  | .xorReg x y => packXYN 0x8 x y 0x3
  | .addReg x y => packXYN 0x8 x y 0x4
  | .sub x y => packXYN 0x8 x y 0x5
  | .shr x y => packXYN 0x8 x y 0x6
  | .subn x y => packXYN 0x8 x y 0x7
  | .shl x y => packXYN 0x8 x y 0xE
  | .ldI nnn => packA 0xA nnn
  | .jpV0 nnn => packA 0xB nnn
  | .rnd x nn => packXNN 0xC x nn
  | .drw x y n => packXYN 0xD x y n
  | .skp x => packXNN 0xE x 0x9E
  | .sknp x => packXNN 0xE x 0xA1
  | .ldVxDt x => packXNN 0xF x 0x07
  | .ldDtVx x => packXNN 0xF x 0x15
  | .ldStVx x => packXNN 0xF x 0x18
  | .addI x => packXNN 0xF x 0x1E
  | .ldF x => packXNN 0xF x 0x29
  | .ldB x => packXNN 0xF x 0x33
  | .storeRegs x => packXNN 0xF x 0x55
  | .loadRegs x => packXNN 0xF x 0x65
  | .ldVxK x => packXNN 0xF x 0x0A

/-- The two bytes of a word as memory holds them, high byte at the lower address (20_memory.md R55, R57). -/
def bytesOfWord (w : Word) : List Byte := [w.extractLsb' 8 8, w.extractLsb' 0 8]

/-- The word of an opcode-table row whose `nbits` bits are `w`; the bits above `nbits` are 0. -/
def tableWord (nbits w : Nat) : Word := BitVec.ofNat 16 (w % 2 ^ nbits)

/-- What the decoder reads from the bytes of an opcode-table row's word. -/
def decodeTableWord (nbits w : Nat) : Option Instr :=
  match decodeBytes (bytesOfWord (tableWord nbits w)) with
  | .ok (i, _) => some i
  | .error _ => none

end Sys2Proof
end

