-- ==== Sys2Proof/Config.lean ====
section
/-! DEFINITION. What is fixed for one machine: the parameters of 00_scope.md R8, and the free values of the inputs
the core does not generate. -/

namespace Sys2Proof.Config

/-- `MEM_SIZE`: addressable bytes (00_scope.md R8; 20_memory.md R50). -/
abbrev memSize : Nat := 4096

/-- `PROG_BASE`: where a load writes (70_reset_and_hazards.md R234). -/
abbrev progBase : Nat := 512

/-- `RESET_PC` (70_reset_and_hazards.md R231; the spec's decision D19, log 13). -/
abbrev resetPc : Word := 0x0200

/-- `STACK_DEPTH` (40_control_flow.md R100; the spec's decision D6, log 10). -/
abbrev stackDepth : Nat := 16

/-- `FB_H`, rows of the framebuffer (10_state.md R28). -/
abbrev fbRows : Nat := 32

/-- `FB_W`, columns of the framebuffer (10_state.md R28). -/
abbrev fbCols : Nat := 64

/-- `NUM_KEYS` (60_exceptions.md R219). -/
abbrev numKeys : Nat := 16

/-- Bytes of one font glyph (42_index_memory.md R153). -/
abbrev glyphBytes : Nat := 5

/-- `SHIFT_SOURCE`: the register SHR and SHL shift (41_alu.md R129; 92_eei_decisions.md D8; log 4). -/
inductive ShiftSource where
  | vx
  | vy
deriving DecidableEq, Repr

/-- `KEY_INDEX_OVERFLOW`: what SKP and SKNP do with a key number above 15 (44_keys_timers.md R180;
92_eei_decisions.md D15; log 4). -/
inductive KeyIndexOverflow where
  | fatal
  | mask
deriving DecidableEq, Repr

/-- The two parameters whose value changes what an instruction does. -/
structure Params where
  shiftSource : ShiftSource
  keyIndexOverflow : KeyIndexOverflow
deriving DecidableEq, Repr

/-- The defaults of 00_scope.md R8. -/
def Params.default : Params := { shiftSource := .vx, keyIndexOverflow := .fatal }

/-- FREE VALUE (log 3): the key state a later step will sample when the host's agenda says nothing of it
(60_exceptions.md R219: "The model takes the key state as a free input of every such step"). -/
opaque freeKeys : Nat → BitVec 16

/-- FREE VALUE (log 3): the byte a later RND will draw when the host's agenda says nothing of it
(60_exceptions.md R221: "A model takes each draw as a free input under no law"). -/
opaque freeRand : Nat → Byte

end Sys2Proof.Config
end

