-- ==== Sys2Proof/Machine/State.lean ====
section
/-! DEFINITION. The machine's state: every item of 10_state.md R20, the parameters of 00_scope.md R8 that change
what an instruction does, and the model's own fields that stand for the outside world of R40 (log 2, log 3). -/

namespace Sys2Proof.Machine

/-- Memory, as (address, byte) pairs in one canonical form; an address not listed reads as at creation
(`Memory.unlisted`; 20_memory.md R50, R66; log 6). -/
abbrev Memory := List Host.Cell

/-- `FB[row][col]`, 32 rows of 64 one-bit cells (10_state.md R28). -/
abbrev Framebuffer := Vector (Vector Bool Config.fbCols) Config.fbRows

/-- `FAULT.cause`, in the order of its codes 0 to 7 (60_exceptions.md R201). -/
inductive Cause where
  /-- Not halted. -/
  | none
  /-- The fetched word matches no opcode. -/
  | unmappedOpcode
  /-- CALL with SP = 16. -/
  | stackOverflow
  /-- RET with SP = 0. -/
  | stackUnderflow
  /-- PC or PC + 1 is 4096 or more. -/
  | fetchOutOfRange
  /-- A data byte address is 4096 or more. -/
  | dataOutOfRange
  /-- V[x] > 15 in SKP or SKNP under KEY_INDEX_OVERFLOW = FATAL. -/
  | keyOutOfRange
  /-- The host's quit request. -/
  | quit
deriving DecidableEq, Repr

/-- `FAULT`, the report of the condition that halted the engine (10_state.md R31). -/
structure FaultReport where
  cause : Cause
  pc : Word
  word : Word
  wordValid : Bool
  addr : BitVec 17
deriving DecidableEq, Repr

/-- "While `HALTED` = 0 every field is 0" (10_state.md R31). -/
def FaultReport.clear : FaultReport := { cause := .none, pc := 0, word := 0, wordValid := false, addr := 0 }

/-- The requests the host presents together at one instant, and the inputs as they stand then
(10_state.md R40, R41). -/
structure Instant where
  reset : Bool := false
  load : Option (List Byte) := none
  quit : Bool := false
  step : Bool := false
  tick : Bool := false
  keys : BitVec 16 := 0
  randByte : Byte := 0
deriving DecidableEq, Repr

structure State where
  /-- MEM (R29). -/
  mem : Memory
  /-- V0 to VF (R21). -/
  v : Vector Byte 16
  /-- I (R24). -/
  i : Word
  /-- PC (R25). -/
  pc : Word
  /-- SP, the number of stack entries in use, 0 to 16 (R26). -/
  sp : Fin (Config.stackDepth + 1)
  /-- STACK (R26). -/
  stack : Vector Word Config.stackDepth
  /-- DT (R27). -/
  dt : Byte
  /-- ST (R27). -/
  st : Byte
  /-- FB (R28). -/
  fb : Framebuffer
  /-- HALTED (R30). -/
  halted : Bool
  /-- FAULT (R31). -/
  fault : FaultReport
  /-- FB_UPDATED (R44). -/
  fbUpdated : Bool
  /-- LOAD_ERR (R20; 70_reset_and_hazards.md R234). -/
  loadErr : Bool
  /-- SHIFT_SOURCE and KEY_INDEX_OVERFLOW; nothing changes them (log 4). -/
  params : Config.Params
  /-- MODEL's own: the input `keys` as the next step samples it (log 3). -/
  keys : BitVec 16
  /-- MODEL's own: the input `rand_byte` as the next RND draws it (log 3). -/
  randByte : Byte
  /-- MODEL's own: how many free input values have been taken (log 3). -/
  samples : Nat
  /-- MODEL's own: the host's coming instants, next first (log 2). -/
  agenda : List Instant
deriving DecidableEq, Repr

/-- No step of this machine stops outside its own halted state: a fatal condition is a state of the machine
(60_exceptions.md R203, R210), so there is no fault to raise (log 1). -/
inductive Fault where
deriving DecidableEq, Repr

inductive Refusal where
  /-- Raised by an arm of `exec` for an instruction without a meaning; no arm raises it (log 1). Safe. -/
  | notModelled (mnemonic : String)
deriving DecidableEq, Repr

/-- The machine at creation, which is the reset state with memory as created (70_reset_and_hazards.md R230, R231).
The model's own fields hold the values of log 2, log 3 and log 4. -/
def State.reset : State where
  mem := []
  v := .replicate 16 0
  i := 0
  pc := Config.resetPc
  sp := 0
  stack := .replicate Config.stackDepth 0
  dt := 0
  st := 0
  fb := .replicate Config.fbRows (.replicate Config.fbCols false)
  halted := false
  fault := .clear
  fbUpdated := false
  loadErr := false
  params := .default
  keys := 0
  randByte := 0
  samples := 0
  agenda := []

end Sys2Proof.Machine
end

