-- ==== Sys2Proof/Machine/Ops.lean ====
section
/-! DEFINITION. The named operations every instruction is made of: memory, registers, the call stack, the
framebuffer's write port, the fetch, the end of a step, entry into the halted state and the reset that leaves it. -/

namespace Sys2Proof.Machine

/-! ### Memory (20_memory.md) -/

/-- `FONT`: 16 glyphs of 5 bytes (92_eei_decisions.md D18; log 8). -/
def fontTable : List Byte :=
  [0xF0, 0x90, 0x90, 0x90, 0xF0] ++ [0x20, 0x60, 0x20, 0x20, 0x70] ++
  [0xF0, 0x10, 0xF0, 0x80, 0xF0] ++ [0xF0, 0x10, 0xF0, 0x10, 0xF0] ++
  [0x90, 0x90, 0xF0, 0x10, 0x10] ++ [0xF0, 0x80, 0xF0, 0x10, 0xF0] ++
  [0xF0, 0x80, 0xF0, 0x90, 0xF0] ++ [0xF0, 0x10, 0x20, 0x40, 0x40] ++
  [0xF0, 0x90, 0xF0, 0x90, 0xF0] ++ [0xF0, 0x90, 0xF0, 0x10, 0xF0] ++
  [0xF0, 0x90, 0xF0, 0x90, 0x90] ++ [0xE0, 0x90, 0xE0, 0x90, 0xE0] ++
  [0xF0, 0x80, 0x80, 0x80, 0xF0] ++ [0xE0, 0x90, 0x90, 0x90, 0xE0] ++
  [0xF0, 0x80, 0xF0, 0x80, 0xF0] ++ [0xF0, 0x80, 0xF0, 0x80, 0x80]

/-- What an address that memory does not list reads as: the contents at creation, the font at 0x000 to 0x04F and
0 elsewhere (20_memory.md R66; log 8, log 9). -/
def Memory.unlisted (a : Nat) : Byte := fontTable.getD a 0

/-- `InRange(a)` (20_memory.md R52). -/
def inRange (a : Nat) : Bool := decide (a < Config.memSize)

/-- The byte at an in-range address, `MEM[a]` of R53; the range check precedes it (`State.rangeOk`, `State.fetch`). -/
def Memory.get : Memory → Nat → Byte
  | [], a => Memory.unlisted a
  | (b, v) :: m, a => if b = a then v else Memory.get m a

/-- Memory without an entry for `a`. -/
def Memory.erase : Memory → Nat → Memory
  | [], _ => []
  | (b, v) :: m, a => if b = a then Memory.erase m a else (b, v) :: Memory.erase m a

/-- Memory with an entry placed before the first higher address. -/
def Memory.insert : Memory → Nat → Byte → Memory
  | [], a, x => [(a, x)]
  | (b, v) :: m, a, x => if a < b then (a, x) :: (b, v) :: m else (b, v) :: Memory.insert m a x

/-- `MEM[a] <- x` of R54 at an in-range address; the range check precedes it. Writing what an unlisted address reads
as leaves no entry. -/
def Memory.set (m : Memory) (a : Nat) (x : Byte) : Memory :=
  if x = Memory.unlisted a then m.erase a else (m.erase a).insert a x

/-- `MEM[a + k] <- xs[k]` for each k in turn. -/
def Memory.setBytes : Memory → Nat → List Byte → Memory
  | m, _, [] => m
  | m, a, x :: xs => Memory.setBytes (m.set a x) (a + 1) xs

/-- The `n` bytes from address `a` on. -/
def Memory.getBytes (m : Memory) (a n : Nat) : List Byte := (List.range n).map fun k => m.get (a + k)

/-- The canonical form: addresses strictly rising and inside the memory, no entry equal to what an unlisted address
reads as (log 6). -/
abbrev Memory.WF (m : Memory) : Prop :=
  m.Pairwise (fun p q => p.1 < q.1) ∧ ∀ p ∈ m, p.1 < Config.memSize ∧ p.2 ≠ Memory.unlisted p.1

/-! ### Registers (10_state.md R21 to R24) -/

/-- `V[x]`. No register is hardwired (R21). -/
def State.reg (s : State) (x : Reg) : Byte := s.v[x]

/-- `V[x] <- b`. -/
def State.setReg (s : State) (x : Reg) (b : Byte) : State := { s with v := s.v.set x b }

/-- VF, the flag register (R22). -/
abbrev vf : Reg := 15

/-- `I <- w` (R24). -/
def State.setI (s : State) (w : Word) : State := { s with i := w }

/-- `V[k] <- bs[k]` for k in 0 .. x; the registers above x keep their values (42_index_memory.md R156). -/
def State.setRegsUpTo (s : State) (x : Reg) (bs : List Byte) : State :=
  { s with v := .ofFn fun k => if k.val ≤ x.val then bs.getD k.val 0 else s.v[k] }

/-- `V[0]` to `V[x]` in order (42_index_memory.md R155). -/
def State.regsUpTo (s : State) (x : Reg) : List Byte := s.v.toList.take (x.val + 1)

def State.setMem (s : State) (m : Memory) : State := { s with mem := m }

def State.setFb (s : State) (fb : Framebuffer) : State := { s with fb := fb }

def State.setDt (s : State) (b : Byte) : State := { s with dt := b }

def State.setSt (s : State) (b : Byte) : State := { s with st := b }

/-! ### The call stack (40_control_flow.md R100, R101) -/

/-- `Push(v)`; `none` is the raise of STACK_OVERFLOW (R100). -/
def State.push (s : State) (v : Word) : Option State :=
  if h : s.sp.val < Config.stackDepth then
    some { s with stack := s.stack.set s.sp.val v h, sp := ⟨s.sp.val + 1, Nat.succ_lt_succ h⟩ }
  else none

/-- `Pop()`, the popped address and the state after it; `none` is the raise of STACK_UNDERFLOW. "The popped entry is
not cleared" (R101). -/
def State.pop (s : State) : Option (Word × State) :=
  if h : s.sp.val = 0 then none
  else
    some (s.stack[s.sp.val - 1]'(by have := s.sp.isLt; omega),
      { s with sp := ⟨s.sp.val - 1, by have := s.sp.isLt; omega⟩ })

/-! ### The framebuffer (43_display.md R170) -/

/-- `FB[row][col]`. -/
def Framebuffer.get (fb : Framebuffer) (row : Fin Config.fbRows) (col : Fin Config.fbCols) : Bool := fb[row][col]

/-- Every cell 0: the clear operation (R170). -/
def Framebuffer.clear : Framebuffer := .replicate Config.fbRows (.replicate Config.fbCols false)

/-- `XorPixel(row, col)`: the cell's old value and the framebuffer with that cell inverted (R170). -/
def Framebuffer.xorPixel (fb : Framebuffer) (row : Fin Config.fbRows) (col : Fin Config.fbCols) :
    Bool × Framebuffer :=
  (fb.get row col, fb.set row (fb[row].set col (!fb.get row col)))

/-! ### The end of a step (30_encoding.md R84) -/

/-- `PC <- PC_next` and `FB_UPDATED <- (CLS or DRW)`: what every completing step does last (R84; 10_state.md R44). -/
def State.complete (s : State) (pcNext : Word) (drew : Bool := false) : State :=
  { s with pc := pcNext, fbUpdated := drew }

/-- Completion with the sequencer's default, `PC_next = trunc_16(PC + 2)` (R87). -/
def State.advance (s : State) (drew : Bool := false) : State := s.complete (s.pc + 2) drew

/-- Completion of a skip: `trunc_16(PC + 4)` when taken (R87). -/
def State.skipIf (s : State) (taken : Bool) : State := s.complete (if taken then s.pc + 4 else s.pc + 2)

/-! ### Entering and leaving the halted state (60_exceptions.md R203, R206) -/

/-- `FAULT.cause`'s code (R201). -/
def Cause.code : Cause → BitVec 3
  | .none => 0
  | .unmappedOpcode => 1
  | .stackOverflow => 2
  | .stackUnderflow => 3
  | .fetchOutOfRange => 4
  | .dataOutOfRange => 5
  | .keyOutOfRange => 6
  | .quit => 7

/-- Entry into the halted state, from the state as it was before the step: HALTED and FAULT, and nothing else
(R203). `word` is the fetched word, or `none` when there is none. Quit enters it the same way (R209). -/
def State.halt (s : State) (cause : Cause) (word : Option Word) (addr : Nat) : State :=
  { s with
    halted := true
    fault :=
      { cause := cause
        pc := s.pc
        word := word.getD 0
        wordValid := word.isSome
        addr := BitVec.ofNat 17 addr } }

/-- `raise Fatal(cause, addr)` during the execution of `i`: the step's effects are discarded and the engine halts
(R203). The word in the report is the instruction's own, which is the one fetched (log 22). -/
def raiseFatal (cause : Cause) (i : Instr) (addr : Nat) (s : State) : Host.Outcome State Fault Refusal :=
  .next (s.halt cause (some (encode i)) addr)

/-- The reset request, in either logical state, and the only return from the halted state: MEM and LOAD_ERR keep
their values (70_reset_and_hazards.md R231, R232; 60_exceptions.md R206). The parameters and the model's own fields
are not the engine's to reset. -/
def State.resetRequest (s : State) : State :=
  { s with
    v := .replicate 16 0
    i := 0
    pc := Config.resetPc
    sp := 0
    stack := .replicate Config.stackDepth 0
    dt := 0
    st := 0
    fb := Framebuffer.clear
    halted := false
    fault := .clear
    fbUpdated := false }

/-! ### The fetch (20_memory.md R55) -/

/-- `Fetch(pc)`: the big-endian word at PC, or the first out-of-range byte address (R55). -/
def State.fetch (s : State) : Except Nat Word :=
  if !inRange s.pc.toNat then .error s.pc.toNat
  else if !inRange (s.pc.toNat + 1) then .error (s.pc.toNat + 1)
  else .ok (wordOfBytes (s.mem.get s.pc.toNat) (s.mem.get (s.pc.toNat + 1)))

/-! ### The inputs (60_exceptions.md R219, R221) -/

/-- After a step has sampled `keys`: what the next sample finds is free (R219; log 3). -/
def State.keysSampled (s : State) : State :=
  { s with keys := Config.freeKeys s.samples, samples := s.samples + 1 }

/-- After a step has drawn `rand_byte`: what the next draw finds is free (R221; log 3). -/
def State.randDrawn (s : State) : State :=
  { s with randByte := Config.freeRand s.samples, samples := s.samples + 1 }

end Sys2Proof.Machine
end

