-- ==== Sys2Proof/Machine/Flags.lean ====
section
/-! DEFINITION. Every value VF receives as a flag (10_state.md R22, R32: VF is the only flag): carry and NOT borrow
(41_alu.md R120), the bit a shift moves out (R129, R131), the collision of a draw (43_display.md R172). -/

namespace Sys2Proof.Machine

/-- A flag's value in VF, 1 or 0. -/
def flagByte (b : Bool) : Byte := if b then 1 else 0

/-- `Carry(a, b)`: 1 exactly when `a + b` > 255 (R120). -/
def carry (a b : Byte) : Byte := flagByte (decide (a.toNat + b.toNat > 255))

/-- `NotBorrow(a, b)`: 1 exactly when `a` ≥ `b` (R120; the polarity is the spec's decision D10, log 12). -/
def notBorrow (a b : Byte) : Byte := flagByte (decide (a.toNat ≥ b.toNat))

/-- `s[0]`, the bit a right shift moves out (R129). -/
def shiftedOutRight (b : Byte) : Byte := flagByte (b.getLsbD 0)

/-- `s[7]`, the bit a left shift moves out (R131). -/
def shiftedOutLeft (b : Byte) : Byte := flagByte (b.getLsbD 7)

/-- Result first, flag second, so that with x = 15 VF ends as the flag (R120; the spec's decision D9, log 12). -/
def State.setRegAndFlag (s : State) (x : Reg) (result flag : Byte) : State :=
  (s.setReg x result).setReg vf flag

end Sys2Proof.Machine
end

