-- ==== Sys2Proof/Machine/Operands.lean ====
section
/-! DEFINITION. The operand forms: the address operand, memory through I with its range check (42_index_memory.md
R150), the shifts' source register (41_alu.md R129), the font address (R153), BCD digits (R154), key numbers
(44_keys_timers.md R180, R186) and sprite cells (43_display.md R172). -/

namespace Sys2Proof.Machine

/-- `zext_16(nnn)` (30_encoding.md R73). -/
def addr12 (nnn : BitVec 12) : Word := nnn.setWidth 16

/-- `EA(k) = I + k`, computed on naturals (R150). -/
def State.ea (s : State) (k : Nat) : Nat := s.i.toNat + k

/-- Whether `CheckRange(m)` passes: `I + m - 1 < 4096`, for `m` ≥ 1 bytes at I (R150). -/
def State.rangeOk (s : State) (m : Nat) : Bool := inRange (s.ea (m - 1))

/-- The lowest out-of-range address of an access through I that does not fit, `max(I, 4096)` (R150). -/
def State.firstOutOfRange (s : State) : Nat := max s.i.toNat Config.memSize

/-- The register SHR and SHL shift, by SHIFT_SOURCE (41_alu.md R129, R131; log 4). -/
def State.shiftOperand (s : State) (x y : Reg) : Byte :=
  match s.params.shiftSource with
  | .vx => s.reg x
  | .vy => s.reg y

/-- `zext_16(v) * 5`, the address of the glyph of `v` (R153). -/
def glyphAddr (v : Byte) : Word := v.toWord * BitVec.ofNat 16 Config.glyphBytes

/-- The hundreds, tens and ones of `v` (R154). -/
def bcdDigits (v : Byte) : List Byte :=
  [BitVec.ofNat 8 (v.toNat / 100), BitVec.ofNat 8 (v.toNat / 10 % 10), BitVec.ofNat 8 (v.toNat % 10)]

/-- `Key(k) = keys[k]` (10_state.md R40). -/
def State.key (s : State) (k : Nat) : Bool := s.keys.getLsbD k

/-- `KeyOf(v)`; `none` is the raise of KEY_OUT_OF_RANGE (44_keys_timers.md R180; log 4). -/
def State.keyOf (s : State) (v : Byte) : Option Bool :=
  if v.toNat < Config.numKeys then some (s.key v.toNat)
  else
    match s.params.keyIndexOverflow with
    | .fatal => none
    | .mask => some (s.key (v &&& 0xF#8).toNat)

/-- The lowest-numbered pressed key (44_keys_timers.md R186; the spec's decision D16, log 16). -/
def State.lowestKey (s : State) : Option Nat := (List.range Config.numKeys).find? fun k => s.key k

/-- The cells of one sprite row, left to right: bit `7 - b` set puts a cell at column offset `b`, wrapped
(43_display.md R172; the bit order is the spec's decision D13, log 15). -/
def rowCells (row cx : Nat) (bits : Byte) : List (Fin Config.fbRows × Fin Config.fbCols) :=
  (List.range 8).filterMap fun b =>
    if bits.getLsbD (7 - b) then some (Fin.ofNat Config.fbRows row, Fin.ofNat Config.fbCols (cx + b)) else none

/-- The cells of a sprite whose first row byte goes to row `row`, each row byte one row further down, wrapped
(R172). -/
def spriteCells (cx : Nat) : Nat → List Byte → List (Fin Config.fbRows × Fin Config.fbCols)
  | _, [] => []
  | row, bits :: rest => rowCells row cx bits ++ spriteCells cx (row + 1) rest

/-- `XorPixel` on each cell in turn, and whether any turned a set pixel off (R172). -/
def drawCells : Framebuffer → Bool → List (Fin Config.fbRows × Fin Config.fbCols) → Framebuffer × Bool
  | fb, hit, [] => (fb, hit)
  | fb, hit, c :: cs => drawCells (fb.xorPixel c.1 c.2).2 (hit || (fb.xorPixel c.1 c.2).1) cs

end Sys2Proof.Machine
end

