-- ==== Sys2Proof/Machine/Alu.lean ====
section
/-! DEFINITION. The register ALU (41_alu.md R121 to R132). Operands are read before any write (30_encoding.md R86). -/

namespace Sys2Proof.Machine

/-- LD Vx, nn (R121). -/
def execLdImm (x : Reg) (nn : Byte) (s : State) : Host.Outcome State Fault Refusal :=
  .next (s.setReg x nn).advance

/-- ADD Vx, nn: wraps, no carry recorded (R122). -/
def execAddImm (x : Reg) (nn : Byte) (s : State) : Host.Outcome State Fault Refusal :=
  .next (s.setReg x (s.reg x + nn)).advance

/-- LD Vx, Vy (R123). -/
def execLdReg (x y : Reg) (s : State) : Host.Outcome State Fault Refusal :=
  .next (s.setReg x (s.reg y)).advance

/-- OR Vx, Vy: VF is not reset (R124). -/
def execOrReg (x y : Reg) (s : State) : Host.Outcome State Fault Refusal :=
  .next (s.setReg x (s.reg x ||| s.reg y)).advance

/-- AND Vx, Vy: VF is not reset (R125). -/
def execAndReg (x y : Reg) (s : State) : Host.Outcome State Fault Refusal :=
  .next (s.setReg x (s.reg x &&& s.reg y)).advance

/-- XOR Vx, Vy: VF is not reset (R126). -/
def execXorReg (x y : Reg) (s : State) : Host.Outcome State Fault Refusal :=
  .next (s.setReg x (s.reg x ^^^ s.reg y)).advance

/-- ADD Vx, Vy: VF is the carry (R127). -/
def execAddReg (x y : Reg) (s : State) : Host.Outcome State Fault Refusal :=
  .next (s.setRegAndFlag x (s.reg x + s.reg y) (carry (s.reg x) (s.reg y))).advance

/-- SUB Vx, Vy: `Vx - Vy`, VF is NOT borrow (R128). -/
def execSub (x y : Reg) (s : State) : Host.Outcome State Fault Refusal :=
  .next (s.setRegAndFlag x (s.reg x - s.reg y) (notBorrow (s.reg x) (s.reg y))).advance

/-- SHR Vx {, Vy}: VF is the bit shifted out (R129). -/
def execShr (x y : Reg) (s : State) : Host.Outcome State Fault Refusal :=
  .next (s.setRegAndFlag x (s.shiftOperand x y >>> 1) (shiftedOutRight (s.shiftOperand x y))).advance

/-- SUBN Vx, Vy: `Vy - Vx`, VF is NOT borrow (R130). -/
def execSubn (x y : Reg) (s : State) : Host.Outcome State Fault Refusal :=
  .next (s.setRegAndFlag x (s.reg y - s.reg x) (notBorrow (s.reg y) (s.reg x))).advance

/-- SHL Vx {, Vy}: VF is the bit shifted out (R131). -/
def execShl (x y : Reg) (s : State) : Host.Outcome State Fault Refusal :=
  .next (s.setRegAndFlag x (s.shiftOperand x y <<< 1) (shiftedOutLeft (s.shiftOperand x y))).advance

/-- RND Vx, nn: one draw of the input `rand_byte`, masked (R132; 60_exceptions.md R221). -/
def execRnd (x : Reg) (nn : Byte) (s : State) : Host.Outcome State Fault Refusal :=
  .next (s.randDrawn.setReg x (s.randByte &&& nn)).advance

end Sys2Proof.Machine
end

