-- ==== Sys2Proof/Machine/ControlFlow.lean ====
section
/-! DEFINITION. Control flow: the PC sequencer and the call stack (40_control_flow.md R103 to R110). -/

namespace Sys2Proof.Machine

/-- RET (R103). -/
def execRet (s : State) : Host.Outcome State Fault Refusal :=
  match s.pop with
  | none => raiseFatal .stackUnderflow .ret 0 s
  | some (target, t) => .next (t.complete target)

/-- JP nnn (R104). -/
def execJp (nnn : BitVec 12) (s : State) : Host.Outcome State Fault Refusal :=
  .next (s.complete (addr12 nnn))

/-- CALL nnn: the value pushed is PC + 2 (R105; the spec's decision D7, log 11). -/
def execCall (nnn : BitVec 12) (s : State) : Host.Outcome State Fault Refusal :=
  match s.push (s.pc + 2) with
  | none => raiseFatal .stackOverflow (.call nnn) 0 s
  | some t => .next (t.complete (addr12 nnn))

/-- SE Vx, nn (R106). -/
def execSeImm (x : Reg) (nn : Byte) (s : State) : Host.Outcome State Fault Refusal :=
  .next (s.skipIf (s.reg x == nn))

/-- SNE Vx, nn (R107). -/
def execSneImm (x : Reg) (nn : Byte) (s : State) : Host.Outcome State Fault Refusal :=
  .next (s.skipIf (s.reg x != nn))

/-- SE Vx, Vy (R108). -/
def execSeReg (x y : Reg) (s : State) : Host.Outcome State Fault Refusal :=
  .next (s.skipIf (s.reg x == s.reg y))

/-- SNE Vx, Vy (R109). -/
def execSneReg (x y : Reg) (s : State) : Host.Outcome State Fault Refusal :=
  .next (s.skipIf (s.reg x != s.reg y))

/-- JP V0, nnn: at most 0x10FE, no masking to 12 bits (R110). -/
def execJpV0 (nnn : BitVec 12) (s : State) : Host.Outcome State Fault Refusal :=
  .next (s.complete (addr12 nnn + (s.reg 0).toWord))

end Sys2Proof.Machine
end

