-- ==== Sys2Proof/Machine/Display.lean ====
section
/-! DEFINITION. The framebuffer's write port: clear and draw (43_display.md R171, R172). Both set FB_UPDATED
(10_state.md R44). -/

namespace Sys2Proof.Machine

/-- CLS (R171). -/
def execCls (s : State) : Host.Outcome State Fault Refusal :=
  .next ((s.setFb Framebuffer.clear).advance true)

/-- The framebuffer and the collision a draw of `rows` at the coordinates in V[x], V[y] leaves (R172). -/
def State.drawn (s : State) (x y : Reg) (rows : List Byte) : Framebuffer × Bool :=
  drawCells s.fb false (spriteCells (s.reg x).toNat (s.reg y).toNat rows)

/-- DRW Vx, Vy, n: `CheckRange(n)` only when `n` ≥ 1; VF is the collision, always written (R172). -/
def execDrw (x y : Reg) (n : Fin 16) (s : State) : Host.Outcome State Fault Refusal :=
  if n.val = 0 ∨ s.rangeOk n.val then
    let drawn := s.drawn x y (s.mem.getBytes (s.ea 0) n.val)
    .next (((s.setFb drawn.1).setReg vf (flagByte drawn.2)).advance true)
  else raiseFatal .dataOutOfRange (.drw x y n) s.firstOutOfRange s

end Sys2Proof.Machine
end

