-- ==== Sys2Proof/Machine/IndexMemory.lean ====
section
/-! DEFINITION. The index register and memory transfers (42_index_memory.md R151 to R156). The block transfers leave I
unchanged (the spec's decision D12, log 14). -/

namespace Sys2Proof.Machine

/-- LD I, nnn (R151). -/
def execLdI (nnn : BitVec 12) (s : State) : Host.Outcome State Fault Refusal :=
  .next (s.setI (addr12 nnn)).advance

/-- ADD I, Vx: 16-bit, no masking to 12 bits, VF not written (R152). -/
def execAddI (x : Reg) (s : State) : Host.Outcome State Fault Refusal :=
  .next (s.setI (s.i + (s.reg x).toWord)).advance

/-- LD F, Vx: the whole register value times 5 (R153). -/
def execLdF (x : Reg) (s : State) : Host.Outcome State Fault Refusal :=
  .next (s.setI (glyphAddr (s.reg x))).advance

/-- LD B, Vx: hundreds, tens, ones at I, I + 1, I + 2 (R154). -/
def execLdB (x : Reg) (s : State) : Host.Outcome State Fault Refusal :=
  if s.rangeOk 3 then
    .next (s.setMem (s.mem.setBytes (s.ea 0) (bcdDigits (s.reg x)))).advance
  else raiseFatal .dataOutOfRange (.ldB x) s.firstOutOfRange s

/-- LD [I], Vx: V0 to Vx at I .. I + x (R155). -/
def execStoreRegs (x : Reg) (s : State) : Host.Outcome State Fault Refusal :=
  if s.rangeOk (x.val + 1) then
    .next (s.setMem (s.mem.setBytes (s.ea 0) (s.regsUpTo x))).advance
  else raiseFatal .dataOutOfRange (.storeRegs x) s.firstOutOfRange s

/-- LD Vx, [I]: V0 to Vx from I .. I + x (R156). -/
def execLoadRegs (x : Reg) (s : State) : Host.Outcome State Fault Refusal :=
  if s.rangeOk (x.val + 1) then
    .next (s.setRegsUpTo x (s.mem.getBytes (s.ea 0) (x.val + 1))).advance
  else raiseFatal .dataOutOfRange (.loadRegs x) s.firstOutOfRange s

end Sys2Proof.Machine
end

