-- ==== Sys2Proof/Machine/KeysTimers.lean ====
section
/-! DEFINITION. Key and timer instructions (44_keys_timers.md R181 to R186). -/

namespace Sys2Proof.Machine

/-- SKP Vx (R181). -/
def execSkp (x : Reg) (s : State) : Host.Outcome State Fault Refusal :=
  match s.keyOf (s.reg x) with
  | none => raiseFatal .keyOutOfRange (.skp x) 0 s
  | some pressed => .next (s.keysSampled.skipIf pressed)

/-- SKNP Vx (R182). -/
def execSknp (x : Reg) (s : State) : Host.Outcome State Fault Refusal :=
  match s.keyOf (s.reg x) with
  | none => raiseFatal .keyOutOfRange (.sknp x) 0 s
  | some pressed => .next (s.keysSampled.skipIf !pressed)

/-- LD Vx, DT (R183). -/
def execLdVxDt (x : Reg) (s : State) : Host.Outcome State Fault Refusal :=
  .next (s.setReg x s.dt).advance

/-- LD DT, Vx (R184). -/
def execLdDtVx (x : Reg) (s : State) : Host.Outcome State Fault Refusal :=
  .next (s.setDt (s.reg x)).advance

/-- LD ST, Vx (R185). -/
def execLdStVx (x : Reg) (s : State) : Host.Outcome State Fault Refusal :=
  .next (s.setSt (s.reg x)).advance

/-- LD Vx, K: with no key pressed the same word executes again at the next step (R186). -/
def execLdVxK (x : Reg) (s : State) : Host.Outcome State Fault Refusal :=
  .next
    (match s.lowestKey with
    | some k => (s.keysSampled.setReg x (BitVec.ofNat 8 k)).advance
    | none => s.keysSampled.complete s.pc)

end Sys2Proof.Machine
end

