-- ==== Sys2Proof/Machine/Requests.lean ====
section
/-! DEFINITION. The host's transactions other than the step: tick (60_exceptions.md R215), quit (R209), load
(70_reset_and_hazards.md R234); the reset request stands in Ops.lean. -/

namespace Sys2Proof.Machine

/-- A saturating down-counter (R215). -/
def countDown (b : Byte) : Byte := if b = 0 then 0 else b - 1

/-- `Tick()`: no effect while halted (R215, R205). -/
def State.tickRequest (s : State) : State :=
  if s.halted then s else { s with dt := countDown s.dt, st := countDown s.st }

/-- Quit: no effect while halted, the first cause is kept (R209, R205). -/
def State.quitRequest (s : State) : State :=
  if s.halted then s else s.halt .quit none 0

/-- `Load(bytes)`, all or nothing, in either logical state (R234). -/
def State.loadRequest (s : State) (bytes : List Byte) : State :=
  if Config.progBase + bytes.length > Config.memSize then { s with loadErr := true }
  else { s with mem := s.mem.setBytes Config.progBase bytes, loadErr := false }

end Sys2Proof.Machine
end

