-- ==== Sys2Proof/Machine/Cycle.lean ====
section
/-! DEFINITION. The step cycle of 30_encoding.md R84 and the order of requests presented together (10_state.md R41). -/

namespace Sys2Proof.Machine

/-- One step request: nothing while halted; else fetch, decode, execute, with FETCH_OUT_OF_RANGE before
UNMAPPED_OPCODE before the instruction's own check (R84; 60_exceptions.md R204, R205). -/
def stepRequest (s : State) : Host.Outcome State Fault Refusal :=
  if s.halted then .next s
  else
    match s.fetch with
    | .error a => .next (s.halt .fetchOutOfRange none a)
    | .ok w =>
      match decodeWord w with
      | none => .next (s.halt .unmappedOpcode (some w) 0)
      | some i => exec i s

/-- Apply a function to the state of a next outcome. -/
def thenDo (f : State → State) : Host.Outcome State Fault Refusal → Host.Outcome State Fault Refusal
  | .next s => .next (f s)
  | .fault r => .fault r
  | .refused r => .refused r

/-- What an instant does before its step: the inputs take their values, then reset, load, quit, in that order
(10_state.md R41). -/
def Instant.beforeStep (t : Instant) (s : State) : State :=
  let s := { s with keys := t.keys, randByte := t.randByte }
  let s := if t.reset then s.resetRequest else s
  let s := match t.load with
    | some bytes => s.loadRequest bytes
    | none => s
  if t.quit then s.quitRequest else s

/-- The requests of one instant, in the order reset, load, quit, step, tick (10_state.md R41). -/
def Instant.perform (t : Instant) (s : State) : Host.Outcome State Fault Refusal :=
  thenDo (fun s => if t.tick then s.tickRequest else s)
    (if t.step then stepRequest (t.beforeStep s) else .next (t.beforeStep s))

/-- The next instant of the agenda is taken and performed; with nothing on the agenda the host presents a step
request alone (log 2). -/
def cycle (s : State) : Host.Outcome State Fault Refusal :=
  match s.agenda with
  | [] => stepRequest s
  | t :: rest => t.perform { s with agenda := rest }

end Sys2Proof.Machine
end

