-- ==== Sys2Proof/Machine/Step.lean ====
section
/-! DEFINITION. The step function, and placing a word where the next step fetches it. -/

namespace Sys2Proof.Machine

/-- One transaction: the next instant of the agenda, or a step request alone (Cycle.lean; log 2). -/
def step (s : State) : Host.Outcome State Fault Refusal := cycle s

/-- `s` with an opcode-table row's word stored at PC, fetch-next, and nothing on the agenda, so that the very next
step fetches and runs it (log 5). It stands for the loader placing a program. -/
def State.withFetchWord (s : State) (nbits w : Nat) : State :=
  { s with
    mem := s.mem.setBytes s.pc.toNat (bytesOfWord (tableWord nbits w))
    halted := false
    fault := .clear
    agenda := [] }

end Sys2Proof.Machine
end

