-- ==== Sys2Proof/Machine/Outputs.lean ====
section
/-! DEFINITION. What the host sees: the output signals of 10_state.md R40, derived from the state. -/

namespace Sys2Proof.Machine

/-- `fb_rd_data` of the combinational read port (R42). -/
def State.fbRead (s : State) (row : Fin Config.fbRows) (col : Fin Config.fbCols) : Bool := s.fb.get row col

/-- `sound_active` = 1 exactly when ST ≠ 0 (R43). -/
def State.soundActive (s : State) : Bool := s.st != 0

/-- The output signals of R40 but for the read port. -/
structure Outputs where
  loadError : Bool
  fbUpdated : Bool
  soundActive : Bool
  halted : Bool
  faultCause : BitVec 3
  faultPc : Word
  faultWord : Word
  faultWordValid : Bool
  faultAddr : BitVec 17
deriving DecidableEq, Repr

def State.outputs (s : State) : Outputs where
  loadError := s.loadErr
  fbUpdated := s.fbUpdated
  soundActive := s.soundActive
  halted := s.halted
  faultCause := s.fault.cause.code
  faultPc := s.fault.pc
  faultWord := s.fault.word
  faultWordValid := s.fault.wordValid
  faultAddr := s.fault.addr

end Sys2Proof.Machine
end

