-- ==== Sys2Proof/Safety.lean ====
section
/-! DEFINITION. The terms claims are stated in: what is left unchanged, the halted state and its report, the machine's
invariant, and which cells a sprite covers. -/

namespace Sys2Proof.Machine

/-- A part of the state other than the registers, PC, FB_UPDATED and the status that frames always name. -/
inductive Part where
  | index
  | memory
  | stack
  | delayTimer
  | soundTimer
  | display
  /-- MODEL's own: the key input (log 3). -/
  | keyInput
  /-- MODEL's own: the random input (log 3). -/
  | randInput
  /-- MODEL's own: the count of free inputs taken (log 3). -/
  | sampleCount
deriving DecidableEq, Repr

/-- A part reads the same in two states; memory byte by byte, the display cell by cell. -/
def Part.Same (s t : State) : Part → Prop
  | .index => t.i = s.i
  | .memory => ∀ a, t.mem.get a = s.mem.get a
  | .stack => t.sp = s.sp ∧ t.stack = s.stack
  | .delayTimer => t.dt = s.dt
  | .soundTimer => t.st = s.st
  | .display => ∀ row col, t.fb.get row col = s.fb.get row col
  | .keyInput => t.keys = s.keys
  | .randInput => t.randByte = s.randByte
  | .sampleCount => t.samples = s.samples

/-- The frame: between `s` and `t` every register outside `regs` and every part outside `parts` is unchanged, and so
are HALTED, FAULT, LOAD_ERR, the parameters and the agenda. PC and FB_UPDATED are said beside it. -/
def Unchanged (s t : State) (regs : List Reg) (parts : List Part) : Prop :=
  (∀ r, r ∉ regs → t.reg r = s.reg r) ∧ (∀ p, p ∉ parts → p.Same s t) ∧ t.halted = s.halted ∧ t.fault = s.fault ∧
    t.loadErr = s.loadErr ∧ t.params = s.params ∧ t.agenda = s.agenda

/-- `t` is `s` halted with a report, and nothing else of it differs (60_exceptions.md R203). -/
def HaltedFrom (s t : State) (report : FaultReport) : Prop := t = { s with halted := true, fault := report }

/-- The word PC points at, high byte first (20_memory.md R55); meaningful when both bytes are in range. -/
def State.nextWord (s : State) : Word := wordOfBytes (s.mem.get s.pc.toNat) (s.mem.get (s.pc.toNat + 1))

/-- A cell a sprite of `n` rows at I, drawn at the coordinates in V[x] and V[y], has a set bit on
(43_display.md R172). -/
def SpriteCovers (s : State) (x y : Reg) (n : Nat) (row : Fin Config.fbRows) (col : Fin Config.fbCols) : Prop :=
  ∃ r < n, ∃ b < 8, row.val = ((s.reg y).toNat + r) % 32 ∧ col.val = ((s.reg x).toNat + b) % 64 ∧
    (s.mem.get (s.ea r)).getLsbD (7 - b) = true

/-- How many bytes of memory through I an instruction accesses (20_memory.md R58). -/
def dataBytes : Instr → Nat
  | .drw _ _ n => n.val
  | .ldB _ => 3
  | .storeRegs x => x.val + 1
  | .loadRegs x => x.val + 1
  | _ => 0

/-- The registers an instruction names as destination (10_state.md R22). -/
def destRegs : Instr → List Reg
  | .ldImm x _ | .addImm x _ | .rnd x _ => [x]
  | .ldReg x _ | .orReg x _ | .andReg x _ | .xorReg x _ | .addReg x _ | .sub x _ | .shr x _ | .subn x _ | .shl x _ => [x]
  | .ldVxDt x | .ldVxK x => [x]
  | .loadRegs x => (List.finRange 16).filter fun k => k.val ≤ x.val
  | _ => []

/-- The instructions that write VF as a side effect (10_state.md R22). -/
def writesFlag : Instr → Bool
  | .addReg _ _ | .sub _ _ | .shr _ _ | .subn _ _ | .shl _ _ | .drw _ _ _ => true
  | _ => false

/-- A report of a halted engine: PC has not moved since, and the word field is 0 when there is no word
(10_state.md R31; 60_exceptions.md R203). -/
def State.Reported (s : State) (wordValid : Bool) (addr : Nat) : Prop :=
  s.halted = true ∧ s.fault.pc = s.pc ∧ s.fault.wordValid = wordValid ∧ (wordValid = false → s.fault.word = 0) ∧
    s.fault.addr.toNat = addr

/-- HALTED and FAULT agree, and the report is true of the state it halted in: each cause with the instructions that
raise it, the condition it reports and its fields (10_state.md R31; 60_exceptions.md R201). -/
def State.FaultConsistent (s : State) : Prop :=
  match s.fault.cause with
  | .none => s.halted = false ∧ s.fault = { cause := .none, pc := 0, word := 0, wordValid := false, addr := 0 }
  | .unmappedOpcode => s.Reported true 0 ∧ decodeWord s.fault.word = none
  | .stackOverflow => s.Reported true 0 ∧ s.sp.val = 16 ∧ ∃ nnn, s.fault.word = encode (.call nnn)
  | .stackUnderflow => s.Reported true 0 ∧ s.sp.val = 0 ∧ s.fault.word = encode .ret
  | .fetchOutOfRange => s.Reported false (max s.pc.toNat 4096) ∧ 4096 ≤ s.pc.toNat + 1
  | .dataOutOfRange =>
    s.Reported true (max s.i.toNat 4096) ∧
      ∃ i, s.fault.word = encode i ∧ 1 ≤ dataBytes i ∧ 4096 ≤ s.i.toNat + dataBytes i - 1
  | .keyOutOfRange =>
    s.Reported true 0 ∧ s.params.keyIndexOverflow = .fatal ∧
      ∃ x, (s.fault.word = encode (.skp x) ∨ s.fault.word = encode (.sknp x)) ∧ 15 < (s.reg x).toNat
  | .quit => s.Reported false 0

/-- The invariant: memory is in canonical form, so it holds nothing outside 0 to 4095, and HALTED and FAULT are
consistent. -/
def State.Inv (s : State) : Prop := s.mem.WF ∧ s.FaultConsistent

/-- The run has met no fatal condition: the engine is fetching, or was quit by the host (60_exceptions.md R210). -/
def State.Safe (s : State) : Prop := s.halted = false ∨ s.fault.cause = .quit

end Sys2Proof.Machine
end

