-- ==== Sys2Proof/Certificates/Slice0/Obligations.lean ====
section
/-! DEFINITION. The statements for the provers. Each docstring names the rules of spec/ it formalises; a clause that
rests on a decision the spec marks as its own (a row D<n> of 92_eei_decisions.md) or on a choice of this model (log <n>)
says so. -/

open Sys2Proof Sys2Proof.Machine

/-! ### Encoding -/

/-- Words written out from the pattern column of R76 decode to the instructions they stand for, one or more of each of
the sixteen families; words that no pattern matches decode to none. The patterns are the spec's own (D3, log 7); the
words are those of 95_test_vectors.md. -/
def Obligations.WordsFromPatternsDecode : Prop :=
  decodeWord 0x00E0 = some .cls ∧ decodeWord 0x00EE = some .ret ∧ decodeWord 0x1ABC = some (.jp 0xABC) ∧
  decodeWord 0x2300 = some (.call 0x300) ∧ decodeWord 0x3342 = some (.seImm 3 0x42) ∧
  decodeWord 0x4342 = some (.sneImm 3 0x42) ∧ decodeWord 0x7202 = some (.addImm 2 0x02) ∧
  decodeWord 0xA123 = some (.ldI 0x123) ∧
  decodeWord 0x5120 = some (.seReg 1 2) ∧ decodeWord 0x9120 = some (.sneReg 1 2) ∧
  decodeWord 0x6A2F = some (.ldImm 0xA 0x2F) ∧ decodeWord 0x8AB7 = some (.subn 0xA 0xB) ∧
  decodeWord 0xB300 = some (.jpV0 0x300) ∧ decodeWord 0xC30F = some (.rnd 3 0x0F) ∧
  decodeWord 0xD125 = some (.drw 1 2 5) ∧ decodeWord 0xE59E = some (.skp 5) ∧ decodeWord 0xE5A1 = some (.sknp 5) ∧
  decodeWord 0xF20A = some (.ldVxK 2) ∧ decodeWord 0xF255 = some (.storeRegs 2) ∧ decodeWord 0x5AB1 = none ∧
  decodeWord 0x8ABF = none ∧ decodeWord 0x0123 = none

/-- R71, R72, R76, R88: decoding the word of any instruction, from the word, from its two bytes in memory order
followed by anything, or from its opcode-table number, gives that instruction with every operand. -/
def Obligations.DecodeOfEncodeGivesInstruction : Prop :=
  ∀ (i : Instr) (rest : List Byte),
    decodeWord (encode i) = some i ∧ decodeBytes (bytesOfWord (encode i) ++ rest) = .ok (i, rest) ∧
      decodeTableWord 16 (encode i).toNat = some i

/-- R83: every word is exactly one instruction of R76 with its fields, the one whose row admits it, or is unmapped and
no row admits it. -/
def Obligations.EveryWordIsOneInstructionOrUnmapped : Prop :=
  ∀ w : Word,
    (∃ i, decodeWord w = some i ∧ encode i = w ∧ (∀ j, encode j = w → j = i) ∧ i.row.admits w = true ∧
      ∀ r ∈ opcodeMap, r.admits w = true → r = i.row) ∨
    (decodeWord w = none ∧ (∀ i, encode i ≠ w) ∧ ∀ r ∈ opcodeMap, r.admits w = false)

/-- R79, R80, R81: in family 8 the low nibble selects the instruction, in families E and F the low byte does, and every
other value is unmapped, whatever the register fields. -/
def Obligations.FamiliesEightEAndFSelectByTrailingBits : Prop :=
  ∀ (x y : Reg) (n : Fin 16) (nn : Byte),
    decodeWord (BitVec.ofNat 16 (0x8000 + 256 * x.val + 16 * y.val + n.val)) =
      (([some (.ldReg x y), some (.orReg x y), some (.andReg x y), some (.xorReg x y), some (.addReg x y),
        some (.sub x y), some (.shr x y), some (.subn x y), none, none, none, none, none, none, some (.shl x y),
        none] : List (Option Instr)).getD n.val none) ∧
    decodeWord (BitVec.ofNat 16 (0xE000 + 256 * x.val + nn.toNat)) =
      (if nn = 0x9E then some (.skp x) else if nn = 0xA1 then some (.sknp x) else none) ∧
    decodeWord (BitVec.ofNat 16 (0xF000 + 256 * x.val + nn.toNat)) =
      (if nn = 0x07 then some (.ldVxDt x) else if nn = 0x0A then some (.ldVxK x)
      else if nn = 0x15 then some (.ldDtVx x) else if nn = 0x18 then some (.ldStVx x)
      else if nn = 0x1E then some (.addI x) else if nn = 0x29 then some (.ldF x)
      else if nn = 0x33 then some (.ldB x) else if nn = 0x55 then some (.storeRegs x)
      else if nn = 0x65 then some (.loadRegs x) else none)

/-! ### Reset, load and the other requests -/

/-- R230, R231: the state at creation. I, PC, HALTED and FAULT rest on the spec's decision D19, the zeros outside the
font on D20, the font bytes, written out here as one number, on D18. -/
def Obligations.CreationStateIsAsTheSpecLists : Prop :=
  (∀ r, State.reset.reg r = 0) ∧ State.reset.i = 0 ∧ State.reset.pc = 0x0200 ∧ State.reset.sp.val = 0 ∧
  (∀ k : Fin 16, State.reset.stack[k] = 0) ∧ State.reset.dt = 0 ∧ State.reset.st = 0 ∧
  (∀ row col, State.reset.fb.get row col = false) ∧ State.reset.halted = false ∧
  State.reset.fault = { cause := .none, pc := 0, word := 0, wordValid := false, addr := 0 } ∧
  State.reset.fbUpdated = false ∧ State.reset.loadErr = false ∧
  (∀ a, 80 ≤ a → State.reset.mem.get a = 0) ∧
  (List.range 40).foldl (fun n a => n * 256 + (State.reset.mem.get a).toNat) 0 =
    0xF0909090F02060202070F010F080F0F010F010F09090F01010F080F010F0F080F090F0F010204040 ∧
  (List.range 40).foldl (fun n a => n * 256 + (State.reset.mem.get (40 + a)).toNat) 0 =
    0xF090F090F0F090F010F0F090F09090E090E090E0F0808080F0E0909090E0F080F080F0F080F08080

/-- R231, R232: a reset request, in either logical state and from any state, as a transaction of its own. Every
register and I, SP, the stack, the timers and the framebuffer are 0, PC is 0x0200, HALTED and FAULT are cleared,
FB_UPDATED is 0; every byte of memory and LOAD_ERR keep their values. I, PC, HALTED and FAULT rest on D19, FB_UPDATED on
D28, LOAD_ERR on D29. That an instant carries its own inputs is this model's choice (log 2). -/
def Obligations.ResetRequestRestoresAllButMemory : Prop :=
  ∀ (s : State) (keys : BitVec 16) (rand : Byte) (rest : List Instant),
    s.agenda = { reset := true, keys := keys, randByte := rand } :: rest →
    ∃ t, step s = .next t ∧ (∀ r, t.reg r = 0) ∧ t.i = 0 ∧ t.pc = 0x0200 ∧ t.sp.val = 0 ∧
      (∀ k : Fin 16, t.stack[k] = 0) ∧ t.dt = 0 ∧ t.st = 0 ∧ (∀ row col, t.fb.get row col = false) ∧
      t.halted = false ∧ t.fault = { cause := .none, pc := 0, word := 0, wordValid := false, addr := 0 } ∧
      t.fbUpdated = false ∧ (∀ a, t.mem.get a = s.mem.get a) ∧ t.loadErr = s.loadErr ∧ t.params = s.params ∧
      t.agenda = rest

/-- R234: a load of at most 3584 bytes writes them from 0x200 on, leaves every other byte, and clears LOAD_ERR; a longer
one writes nothing and sets LOAD_ERR; a load changes nothing else and is accepted in either logical state. All or
nothing, and that nothing else changes, is the spec's decision D29. That the instant also sets the inputs and leaves the
agenda is this model's choice (log 2, log 3). -/
def Obligations.LoadWritesProgramOrRefusesWhole : Prop :=
  ∀ (s : State) (bytes : List Byte) (keys : BitVec 16) (rand : Byte) (rest : List Instant),
    s.agenda = { load := some bytes, keys := keys, randByte := rand } :: rest →
    ∃ t, step s = .next t ∧
      (bytes.length ≤ 3584 →
        t.loadErr = false ∧ (∀ k, k < bytes.length → some (t.mem.get (512 + k)) = bytes[k]?) ∧
          ∀ a, a < 512 ∨ 512 + bytes.length ≤ a → t.mem.get a = s.mem.get a) ∧
      (3584 < bytes.length → t.loadErr = true ∧ ∀ a, t.mem.get a = s.mem.get a) ∧
      { t with mem := s.mem, loadErr := s.loadErr } = { s with keys := keys, randByte := rand, agenda := rest }

/-- R209: quit, as a transaction of its own on a fetching engine, halts it with cause QUIT and reports PC, and changes
nothing else of the engine. The record's form is the spec's decision D24, the rule D26. That the instant also sets the
inputs and leaves the agenda is this model's choice (log 2, log 3). -/
def Obligations.QuitHaltsBetweenSteps : Prop :=
  ∀ (s : State) (keys : BitVec 16) (rand : Byte) (rest : List Instant),
    s.halted = false → s.agenda = { quit := true, keys := keys, randByte := rand } :: rest →
    ∃ t, step s = .next t ∧
      HaltedFrom { s with keys := keys, randByte := rand, agenda := rest } t
        { cause := .quit, pc := s.pc, word := 0, wordValid := false, addr := 0 }

/-- R215: a tick decrements each nonzero timer by exactly one and changes nothing else, and does nothing while halted;
so after n ticks a timer reads its value less n, and 0 from then on: never negative. -/
def Obligations.TickCountsBothTimersDownToZero : Prop :=
  (∀ s : State, s.halted = true → s.tickRequest = s) ∧
  (∀ s : State, s.halted = false →
    s.tickRequest.dt.toNat = (if s.dt.toNat ≠ 0 then s.dt.toNat - 1 else 0) ∧
    s.tickRequest.st.toNat = (if s.st.toNat ≠ 0 then s.st.toNat - 1 else 0) ∧
    { s.tickRequest with dt := s.dt, st := s.st } = s) ∧
  ∀ (s : State) (n : Nat), s.halted = false →
    ((State.tickRequest^[n]) s).dt.toNat = s.dt.toNat - n ∧ ((State.tickRequest^[n]) s).st.toNat = s.st.toNat - n

/-- R40: an instant that presents one request is that request's transaction, in the state with the instant's inputs.
The agenda is this model's choice (log 2). -/
def Obligations.OneRequestIsItsTransaction : Prop :=
  ∀ (s t : State) (k : BitVec 16) (b : Byte) (rest : List Instant) (bytes : List Byte),
    t = { s with keys := k, randByte := b, agenda := rest } →
    step { s with agenda := { reset := true, keys := k, randByte := b } :: rest } = .next t.resetRequest ∧
    step { s with agenda := { load := some bytes, keys := k, randByte := b } :: rest } =
      .next (t.loadRequest bytes) ∧
    step { s with agenda := { quit := true, keys := k, randByte := b } :: rest } = .next t.quitRequest ∧
    step { s with agenda := { step := true, keys := k, randByte := b } :: rest } = stepRequest t ∧
    step { s with agenda := { tick := true, keys := k, randByte := b } :: rest } = .next t.tickRequest ∧
    step { s with agenda := [] } = stepRequest { s with agenda := [] }

/-- R41: requests presented together are performed in the order reset, load, quit, step, tick: one instant with several
requests does what five instants with one request each do, in that order. The order is the spec's decision D2. That an
instant sets the inputs for its own step is this model's choice (log 2, log 3), so the inputs left over, which no step
has sampled yet, are those of the last instant. -/
def Obligations.RequestsTogetherAreRequestsInOrder : Prop :=
  ∀ (s : State) (p : Instant) (rest : List Instant),
    ∃ u v,
      step { s with agenda := p :: rest } = .next u ∧
      Sys2Proof.core.run 5
        { s with
          agenda :=
            [{ reset := p.reset, keys := p.keys, randByte := p.randByte },
              { load := p.load, keys := p.keys, randByte := p.randByte },
              { quit := p.quit, keys := p.keys, randByte := p.randByte },
              { step := p.step, keys := p.keys, randByte := p.randByte },
              { tick := p.tick, keys := p.keys, randByte := p.randByte }] ++ rest } = .next v ∧
      v = { u with keys := p.keys, randByte := p.randByte }

/-! ### The step cycle -/

/-- R84, R85: with nothing else presented, a step of a fetching engine whose two bytes at PC are in range and decode to
an instruction IS that instruction's execution; when the step is one of an instant's requests, it is executed in the
state the instant's inputs and its reset, load and quit leave, and the tick follows. That an empty agenda is a lone step
request is this model's choice (log 2). -/
def Obligations.StepRunsTheDecodedInstruction : Prop :=
  ∀ (s : State) (i : Instr),
    (s.agenda = [] → s.halted = false → s.pc.toNat + 1 < 4096 → decodeWord s.nextWord = some i →
      step s = exec i s) ∧
    ∀ (p : Instant) (rest : List Instant) (u : State),
      s.agenda = p :: rest → p.step = true → u = p.beforeStep { s with agenda := rest } → u.halted = false →
      u.pc.toNat + 1 < 4096 → decodeWord u.nextWord = some i →
      step s = thenDo (fun t => if p.tick then t.tickRequest else t) (exec i u)

/-- The opcode-table word of any instruction, placed where a state fetches, runs as that instruction at the next step
(log 5; R64: the fetch sees what memory holds). -/
def Obligations.PlacedWordRunsNext : Prop :=
  ∀ (s : State) (i : Instr), s.pc.toNat + 1 < 4096 →
    step (s.withFetchWord 16 (encode i).toNat) = exec i (s.withFetchWord 16 (encode i).toNat)

/-- R55, R57: the fetch reads the byte at PC into bits 15:8 and the next byte into bits 7:0, at odd addresses as at even
ones; with a byte at 4096 or above it gives no word but the first out-of-range address. Legal odd addresses rest on
D21, the faulting fetch on D22. -/
def Obligations.FetchIsBigEndianAndRangeChecked : Prop :=
  ∀ s : State,
    (s.pc.toNat + 1 < 4096 → ∃ w, s.fetch = .ok w ∧
      w.toNat = 256 * (s.mem.get s.pc.toNat).toNat + (s.mem.get (s.pc.toNat + 1)).toNat) ∧
    (s.pc.toNat = 4095 → s.fetch = .error 4096) ∧ (4096 ≤ s.pc.toNat → s.fetch = .error s.pc.toNat)

/-- R55, R82, R203, R204: a step whose fetch is out of range halts with FETCH_OUT_OF_RANGE and no word; a step whose
word is unmapped halts with UNMAPPED_OPCODE and that word; only HALTED and FAULT change. The record and that nothing
else changes are the spec's decisions D22, D23, D24. That an empty agenda is a lone step request is this model's
choice (log 2). -/
def Obligations.UnfetchableAndUnmappedStepsHalt : Prop :=
  ∀ s : State, s.agenda = [] → s.halted = false →
    (4096 ≤ s.pc.toNat + 1 → ∃ t, step s = .next t ∧
      HaltedFrom s t { cause := .fetchOutOfRange, pc := s.pc, word := 0, wordValid := false,
                       addr := BitVec.ofNat 17 (max s.pc.toNat 4096) }) ∧
    (s.pc.toNat + 1 < 4096 → decodeWord s.nextWord = none → ∃ t, step s = .next t ∧
      HaltedFrom s t { cause := .unmappedOpcode, pc := s.pc, word := s.nextWord, wordValid := true, addr := 0 })

/-- R87, R103 to R110, R180, R181, R182, R186: the sequencer. A completing instruction leaves PC at `trunc_16(PC +
2)`, but a taken skip leaves it at `trunc_16(PC + 4)`, JP, CALL and JP V0 leave it at their target, RET at the popped
address, a waiting LD Vx, K where it was; and there is no delay slot: the instruction at the new PC is the next one
executed. A skip is taken when its own rule says so. That SKP and SKNP take the low four bits of a key number above
15, when they complete on one, is the spec's decision D15 (log 4); that the sampled key input is a field of State is
this model's choice (log 3). -/
def Obligations.SequencerSetsProgramCounter : Prop :=
  ∀ (i : Instr) (s t : State), s.halted = false → exec i s = .next t → t.halted = false →
    (match i with
      | .jp nnn | .call nnn => t.pc.toNat = nnn.toNat
      | .jpV0 nnn => t.pc.toNat = nnn.toNat + (s.reg 0).toNat
      | .ret => s.stack[s.sp.val - 1]? = some t.pc
      | .seImm x nn => t.pc.toNat = (s.pc.toNat + if s.reg x = nn then 4 else 2) % 65536
      | .sneImm x nn => t.pc.toNat = (s.pc.toNat + if s.reg x = nn then 2 else 4) % 65536
      | .seReg x y => t.pc.toNat = (s.pc.toNat + if s.reg x = s.reg y then 4 else 2) % 65536
      | .sneReg x y => t.pc.toNat = (s.pc.toNat + if s.reg x = s.reg y then 2 else 4) % 65536
      | .skp x => t.pc.toNat = (s.pc.toNat + if s.keys.getLsbD ((s.reg x).toNat % 16) then 4 else 2) % 65536
      | .sknp x => t.pc.toNat = (s.pc.toNat + if s.keys.getLsbD ((s.reg x).toNat % 16) then 2 else 4) % 65536
      | .ldVxK _ => if s.keys = 0 then t.pc = s.pc else t.pc.toNat = (s.pc.toNat + 2) % 65536
      | _ => t.pc.toNat = (s.pc.toNat + 2) % 65536) ∧
    ∀ j, t.pc.toNat + 1 < 4096 → decodeWord t.nextWord = some j → stepRequest t = exec j t

/-! ### The halted state -/

/-- R202: executing an instruction on a fetching engine can halt it only for RET (3), CALL (2), DRW with n ≥ 1, LD B,
LD [I] and LD Vx, [I] (5), SKP and SKNP (6, only under KEY_INDEX_OVERFLOW = FATAL), each with that one cause; every
other instruction completes. -/
def Obligations.OnlyListedInstructionsCanHalt : Prop :=
  ∀ (i : Instr) (s : State), s.halted = false → ∃ t, exec i s = .next t ∧
    (t.halted = true →
      match i with
      | .ret => t.fault.cause.code = 3
      | .call _ => t.fault.cause.code = 2
      | .drw _ _ n => t.fault.cause.code = 5 ∧ 1 ≤ n.val
      | .ldB _ | .storeRegs _ | .loadRegs _ => t.fault.cause.code = 5
      | .skp _ | .sknp _ => t.fault.cause.code = 6 ∧ s.params.keyIndexOverflow = .fatal
      | _ => False)

/-- R59, R86, R203: an execution that halts a fetching engine writes nothing but HALTED and FAULT, and the report holds
the PC and the word of the instruction that faulted, and max(I, 4096) as the address exactly for DATA_OUT_OF_RANGE. That
nothing is written is the spec's decision D23, the record D24. -/
def Obligations.FatalExecutionDiscardsEveryEffect : Prop :=
  ∀ (i : Instr) (s t : State), s.halted = false → exec i s = .next t → t.halted = true →
    HaltedFrom s t
      { cause := t.fault.cause
        pc := s.pc
        word := encode i
        wordValid := true
        addr := if t.fault.cause = .dataOutOfRange then BitVec.ofNat 17 (max s.i.toNat 4096) else 0 } ∧
      t.fault.cause ≠ .none

/-- R205: while halted a step, a tick and a quit have no effect (the inputs presented and the agenda's advance apart,
which are this model's own), alone or together; a load is performed as usual. The spec's decision D25. -/
def Obligations.HaltedEngineIgnoresStepTickAndQuit : Prop :=
  ∀ s : State, s.halted = true →
    (s.agenda = [] → step s = .next s) ∧
    ∀ (p : Instant) (rest : List Instant), s.agenda = p :: rest → p.reset = false →
      (p.load = none → step s = .next { s with keys := p.keys, randByte := p.randByte, agenda := rest }) ∧
      ∀ bytes, p.load = some bytes →
        step s = .next ({ s with keys := p.keys, randByte := p.randByte, agenda := rest }.loadRequest bytes)

/-- R206: the halted state is left only by reset, which clears HALTED and FAULT. Without a reset a halted engine stays
halted with the same report, so no second fault occurs, and no instruction runs: registers, I, PC, SP, the stack, the
timers, the framebuffer and FB_UPDATED stay. -/
def Obligations.HaltedStateIsLeftOnlyByReset : Prop :=
  (∀ s t : State, s.halted = true → step s = .next t → (∀ p rest, s.agenda = p :: rest → p.reset = false) →
    t.halted = true ∧ t.fault = s.fault ∧ t.v = s.v ∧ t.i = s.i ∧ t.pc = s.pc ∧ t.sp = s.sp ∧ t.stack = s.stack ∧
      t.dt = s.dt ∧ t.st = s.st ∧ t.fb = s.fb ∧ t.fbUpdated = s.fbUpdated) ∧
  ∀ (s : State) (p : Instant) (rest : List Instant), s.agenda = p :: rest → p.reset = true → p.quit = false →
    p.step = false → ∃ t, step s = .next t ∧ t.halted = false ∧
      t.fault = { cause := .none, pc := 0, word := 0, wordValid := false, addr := 0 }

/-- R205, R206, R209, R210: the state machine, request by request. From fetch-next a step stays in fetch-next or halts
with a fatal cause, a quit halts, a tick or load stays; while halted a step runs no instruction, and step, tick, quit
and load stay halted with the same report; a reset leads from either state to fetch-next and clears HALTED and FAULT.
Every step ends: there is no suspended instruction. That a step, a tick and a quit change nothing while halted is the
spec's decision D25, the quit and its cause D26 and D24 (log 18, log 19). -/
def Obligations.LogicalStatesFollowTheStateMachine : Prop :=
  (∀ (s : State) (bytes : List Byte), s.halted = false →
    (∃ t, stepRequest s = .next t ∧
      (t.halted = false ∨ t.halted = true ∧ t.fault.cause ≠ .none ∧ t.fault.cause ≠ .quit)) ∧
    s.quitRequest.halted = true ∧ s.quitRequest.fault.cause = .quit ∧ s.tickRequest.halted = false ∧
    (s.loadRequest bytes).halted = false) ∧
  (∀ (s : State) (bytes : List Byte), s.halted = true →
    stepRequest s = .next s ∧ s.tickRequest = s ∧ s.quitRequest = s ∧ (s.loadRequest bytes).halted = true ∧
    (s.loadRequest bytes).fault = s.fault) ∧
  ∀ s : State, s.resetRequest.halted = false ∧
    s.resetRequest.fault = { cause := .none, pc := 0, word := 0, wordValid := false, addr := 0 }

/-- Every transaction from every state answers a next state: the machine stops nowhere but in its own halted state
(R83, R202, R205, R210; log 1). It takes the head of the agenda and never changes the parameters (R8), and the count of
free inputs never falls (log 2, log 3, log 4). -/
def Obligations.EveryTransactionAnswersANextState : Prop :=
  ∀ s : State, ∃ t, step s = .next t ∧ t.agenda = s.agenda.tail ∧ t.params = s.params ∧ s.samples ≤ t.samples

/-! ### The invariant -/

/-- The invariant holds at creation (R31, R66, R230). -/
def Obligations.InvariantHoldsAtCreation : Prop := State.reset.Inv

/-- From every state that meets it, every transaction keeps the invariant: memory in canonical form, HALTED = 1 exactly
when FAULT names a cause, and the report true of the state (R31, R201, R203, R205). The record's fields are the spec's
decision D24; the canonical form is this model's (log 6). -/
def Obligations.EveryTransactionKeepsTheInvariant : Prop :=
  ∀ s t : State, s.Inv → step s = .next t → t.Inv

/-! ### Rules over all instructions -/

/-- R24, R26, R27, R28, R34: I, the call stack, each timer, the framebuffer and memory are written by no instruction
but those the spec names, and no instruction writes LOAD_ERR. -/
def Obligations.StateIsWrittenOnlyByItsInstructions : Prop :=
  ∀ (i : Instr) (s t : State), exec i s = .next t →
    (t.i ≠ s.i → (∃ nnn, i = .ldI nnn) ∨ (∃ x, i = .addI x) ∨ ∃ x, i = .ldF x) ∧
    (t.sp ≠ s.sp ∨ t.stack ≠ s.stack → (∃ nnn, i = .call nnn) ∨ i = .ret) ∧
    (t.dt ≠ s.dt → ∃ x, i = .ldDtVx x) ∧ (t.st ≠ s.st → ∃ x, i = .ldStVx x) ∧
    (t.fb ≠ s.fb → i = .cls ∨ ∃ x y n, i = .drw x y n) ∧
    (t.mem ≠ s.mem → (∃ x, i = .ldB x) ∨ ∃ x, i = .storeRegs x) ∧ t.loadErr = s.loadErr

/-- R21, R22: an instruction writes a register only as its named destination, or VF as the flag of ADD Vx, Vy, SUB, SHR,
SUBN, SHL or DRW; and when one of those completes VF is 0 or 1, even when VF is its destination. That the flag wins then
is the spec's decision D9. -/
def Obligations.RegistersAreWrittenOnlyAsDestinationOrFlag : Prop :=
  ∀ (i : Instr) (s t : State), s.halted = false → exec i s = .next t →
    (∀ r, r ∉ destRegs i → ¬(r = vf ∧ writesFlag i = true) → t.reg r = s.reg r) ∧
    (writesFlag i = true → t.halted = false → t.reg vf = 0 ∨ t.reg vf = 1)

/-- R27, R28, R218: no instruction reads ST; none but LD Vx, DT reads DT; none but DRW reads the framebuffer. Changing
the value before an execution changes nothing after it but that value, if it is not overwritten. -/
def Obligations.TimersAndDisplayAreReadOnlyByTheirInstructions : Prop :=
  ∀ (i : Instr) (s : State), ∃ t, exec i s = .next t ∧
    (∀ b, exec i (s.setSt b) = .next t ∨ exec i (s.setSt b) = .next (t.setSt b)) ∧
    ((∀ x, i ≠ .ldVxDt x) → ∀ b, exec i (s.setDt b) = .next t ∨ exec i (s.setDt b) = .next (t.setDt b)) ∧
    ((∀ x y n, i ≠ .drw x y n) → ∀ fb, exec i (s.setFb fb) = .next t ∨ exec i (s.setFb fb) = .next (t.setFb fb))

/-- R43, R44: `sound_active` is 1 exactly when ST ≠ 0; FB_UPDATED is 1 after a completed CLS or DRW and 0 after every
other completed instruction; an execution that halts, a tick, a quit and a load leave it, a reset clears it. The spec's
decisions D27, D28. -/
def Obligations.SoundAndUpdateOutputsFollowTheState : Prop :=
  (∀ s : State, s.outputs.soundActive = true ↔ s.st ≠ 0) ∧
  (∀ (i : Instr) (s t : State), s.halted = false → exec i s = .next t →
    t.outputs.fbUpdated =
      if t.halted then s.outputs.fbUpdated
      else match i with
        | .cls | .drw _ _ _ => true
        | _ => false) ∧
  ∀ (s : State) (bytes : List Byte), s.tickRequest.outputs.fbUpdated = s.outputs.fbUpdated ∧
    s.quitRequest.outputs.fbUpdated = s.outputs.fbUpdated ∧
    (s.loadRequest bytes).outputs.fbUpdated = s.outputs.fbUpdated ∧ s.resetRequest.outputs.fbUpdated = false

/-- R170, R172: the framebuffer's two write operations, clear (every cell 0) and XOR-pixel (inverts one cell, leaves
the others, reports its old value), and that nothing else but reset changes it: a step that changes it ran CLS, and it
is clear, or ran DRW, which XOR-ed each cell of its sprite once; tick, quit and load leave it, reset clears it. Which
cells the sprite has rests on the bit order of the spec's decision D13 (log 15); that no cell is touched twice is
derived in R172. -/
def Obligations.FramebufferChangesOnlyByClearAndXor : Prop :=
  (∀ row col, Framebuffer.clear.get row col = false) ∧
  (∀ (fb : Framebuffer) (row r : Fin 32) (col c : Fin 64),
    (fb.xorPixel row col).1 = fb.get row col ∧
    (fb.xorPixel row col).2.get r c = if r = row ∧ c = col then !fb.get row col else fb.get r c) ∧
  (∀ s t : State, stepRequest s = .next t → t.fb ≠ s.fb →
    (decodeWord s.nextWord = some .cls ∧ t.fb = Framebuffer.clear) ∨
    ∃ x y n, decodeWord s.nextWord = some (.drw x y n) ∧
      ∃ cells : List (Fin 32 × Fin 64), cells.Nodup ∧ (∀ p, p ∈ cells ↔ SpriteCovers s x y n.val p.1 p.2) ∧
        t.fb = cells.foldl (fun fb p => (fb.xorPixel p.1 p.2).2) s.fb) ∧
  ∀ (s : State) (bytes : List Byte), s.tickRequest.fb = s.fb ∧ s.quitRequest.fb = s.fb ∧
    (s.loadRequest bytes).fb = s.fb ∧ s.resetRequest.fb = Framebuffer.clear

/-! ### Control flow -/

/-- R101: a pop of an empty stack is refused and fatal to RET; any other gives the newest entry and leaves SP one lower,
clears no entry, and RET goes to the popped address. -/
def Obligations.PopTakesTheNewestEntry : Prop :=
  ∀ s : State,
    (s.sp.val = 0 → s.pop = none ∧ ∃ t, exec .ret s = .next t ∧ t.halted = true ∧ t.fault.cause = .stackUnderflow) ∧
    (s.sp.val ≠ 0 → ∃ w t, s.pop = some (w, t) ∧ s.stack[s.sp.val - 1]? = some w ∧ t.sp.val = s.sp.val - 1 ∧
      t.stack = s.stack ∧ ∃ u, exec .ret s = .next u ∧ u.pc = w ∧ u.sp = t.sp ∧ u.stack = s.stack)

/-- R104, R110: JP goes to its address, JP V0 to its address plus V0, unmasked; nothing else changes. For every state
and operand. -/
def Obligations.JumpsGoToTheirTargets : Prop :=
  ∀ (nnn : BitVec 12) (s : State),
    (∃ t, exec (.jp nnn) s = .next t ∧ t.pc.toNat = nnn.toNat ∧ t.fbUpdated = false ∧ Unchanged s t [] []) ∧
    ∃ t, exec (.jpV0 nnn) s = .next t ∧ t.pc.toNat = nnn.toNat + (s.reg 0).toNat ∧ t.fbUpdated = false ∧
      Unchanged s t [] []

/-- R100, R105: with room on the stack CALL pushes `PC + 2` at the slot SP numbers, leaves the other slots, raises SP by
one and goes to its address; nothing else changes. The pushed value is the spec's decision D7, the depth D6. -/
def Obligations.CallPushesReturnAddress : Prop :=
  ∀ (nnn : BitVec 12) (s : State), s.sp.val < 16 →
    ∃ t, exec (.call nnn) s = .next t ∧ t.pc.toNat = nnn.toNat ∧ t.sp.val = s.sp.val + 1 ∧
      (∀ k : Fin 16, t.stack[k] = if k.val = s.sp.val then s.pc + 2 else s.stack[k]) ∧ t.fbUpdated = false ∧
      Unchanged s t [] [.stack]

/-- R101, R103: with an entry on the stack RET goes to the newest one as it is and lowers SP by one; the entry is not
cleared and nothing else changes. -/
def Obligations.ReturnPopsItsTarget : Prop :=
  ∀ s : State, s.sp.val ≠ 0 →
    ∃ t, exec .ret s = .next t ∧ s.stack[s.sp.val - 1]? = some t.pc ∧ t.sp.val = s.sp.val - 1 ∧ t.stack = s.stack ∧
      t.fbUpdated = false ∧ Unchanged s t [] [.stack]

/-- R100, R101, R201, R203: CALL with a full stack halts with STACK_OVERFLOW, RET with an empty one with
STACK_UNDERFLOW, and nothing is written. The depth is the spec's decision D6, the record D23 and D24. -/
def Obligations.StackFaultsHalt : Prop :=
  ∀ (nnn : BitVec 12) (s : State),
    (s.sp.val = 16 → ∃ t, exec (.call nnn) s = .next t ∧
      HaltedFrom s t { cause := .stackOverflow, pc := s.pc, word := encode (.call nnn), wordValid := true, addr := 0 }) ∧
    (s.sp.val = 0 → ∃ t, exec .ret s = .next t ∧
      HaltedFrom s t { cause := .stackUnderflow, pc := s.pc, word := 0x00EE, wordValid := true, addr := 0 })

/-- R111: a CALL at A, then any steps that leave SP as the CALL left it and the pushed entry in place, then RET: PC is
A + 2 and SP is what it was before the CALL. Derived in the spec from R103 and R105. -/
def Obligations.CallThenReturnResumesAfterTheCall : Prop :=
  ∀ (nnn : BitVec 12) (s : State), s.sp.val < 16 →
    ∃ t, exec (.call nnn) s = .next t ∧
      ∀ t' : State, t'.sp = t.sp → t'.stack[s.sp.val]? = t.stack[s.sp.val]? →
        ∃ u, exec .ret t' = .next u ∧ u.pc = s.pc + 2 ∧ u.sp = s.sp

/-- R106, R107, R108, R109: the four skips on registers, for every state and operand: PC advances by 4 when the
condition holds and by 2 when it does not, and nothing else changes. -/
def Obligations.RegisterSkipsAdvanceByFourOrTwo : Prop :=
  ∀ (x y : Reg) (nn : Byte) (s : State),
    (∃ t, exec (.seImm x nn) s = .next t ∧ t.pc = s.pc + (if s.reg x = nn then 4 else 2) ∧ t.fbUpdated = false ∧
      Unchanged s t [] []) ∧
    (∃ t, exec (.sneImm x nn) s = .next t ∧ t.pc = s.pc + (if s.reg x = nn then 2 else 4) ∧ t.fbUpdated = false ∧
      Unchanged s t [] []) ∧
    (∃ t, exec (.seReg x y) s = .next t ∧ t.pc = s.pc + (if s.reg x = s.reg y then 4 else 2) ∧
      t.fbUpdated = false ∧ Unchanged s t [] []) ∧
    ∃ t, exec (.sneReg x y) s = .next t ∧ t.pc = s.pc + (if s.reg x = s.reg y then 2 else 4) ∧ t.fbUpdated = false ∧
      Unchanged s t [] []

/-! ### Register ALU -/

/-- R121, R123: LD Vx, nn and LD Vx, Vy, for every state and operand, VF as destination too: the value, PC + 2, and
nothing else. -/
def Obligations.LoadImmediateAndCopySetOneRegister : Prop :=
  ∀ (x y : Reg) (nn : Byte) (s : State),
    (∃ t, exec (.ldImm x nn) s = .next t ∧ t.reg x = nn ∧ t.pc = s.pc + 2 ∧ t.fbUpdated = false ∧
      Unchanged s t [x] []) ∧
    ∃ t, exec (.ldReg x y) s = .next t ∧ t.reg x = s.reg y ∧ t.pc = s.pc + 2 ∧ t.fbUpdated = false ∧
      Unchanged s t [x] []

/-- R120, R122: ADD Vx, nn wraps at 8 bits and records no carry: with x other than 15 VF is unchanged, like every other
register. -/
def Obligations.AddImmediateWrapsWithoutFlag : Prop :=
  ∀ (x : Reg) (nn : Byte) (s : State),
    ∃ t, exec (.addImm x nn) s = .next t ∧ (t.reg x).toNat = ((s.reg x).toNat + nn.toNat) % 256 ∧ t.pc = s.pc + 2 ∧
      t.fbUpdated = false ∧ Unchanged s t [x] []

/-- R124, R125, R126: OR, AND and XOR act bit by bit and write no flag: with x other than 15 VF is unchanged. -/
def Obligations.LogicActsBitwiseWithoutFlag : Prop :=
  ∀ (x y : Reg) (s : State),
    (∃ t, exec (.orReg x y) s = .next t ∧
      (∀ k, (t.reg x).getLsbD k = ((s.reg x).getLsbD k || (s.reg y).getLsbD k)) ∧ t.pc = s.pc + 2 ∧
      t.fbUpdated = false ∧ Unchanged s t [x] []) ∧
    (∃ t, exec (.andReg x y) s = .next t ∧
      (∀ k, (t.reg x).getLsbD k = ((s.reg x).getLsbD k && (s.reg y).getLsbD k)) ∧ t.pc = s.pc + 2 ∧
      t.fbUpdated = false ∧ Unchanged s t [x] []) ∧
    ∃ t, exec (.xorReg x y) s = .next t ∧
      (∀ k, (t.reg x).getLsbD k = ((s.reg x).getLsbD k ^^ (s.reg y).getLsbD k)) ∧ t.pc = s.pc + 2 ∧
      t.fbUpdated = false ∧ Unchanged s t [x] []

/-- R120, R127: ADD Vx, Vy leaves the sum truncated to 8 bits in Vx and the carry in VF; with x = 15 VF ends as the
carry (the spec's decision D9). -/
def Obligations.AddRegistersSetsCarry : Prop :=
  ∀ (x y : Reg) (s : State),
    ∃ t, exec (.addReg x y) s = .next t ∧
      (x ≠ vf → (t.reg x).toNat = ((s.reg x).toNat + (s.reg y).toNat) % 256) ∧
      t.reg vf = (if (s.reg x).toNat + (s.reg y).toNat > 255 then 1 else 0) ∧ t.pc = s.pc + 2 ∧ t.fbUpdated = false ∧
      Unchanged s t [x, vf] []

/-- R120, R128, R130: SUB leaves Vx - Vy and SUBN Vy - Vx, truncated to 8 bits, and VF is 1 exactly when there is no
borrow, equal operands included; with x = 15 VF ends as the flag. The polarity is the spec's decision D10, the order of
the two writes D9. -/
def Obligations.SubtractionsSetNotBorrow : Prop :=
  ∀ (x y : Reg) (s : State),
    (∃ t, exec (.sub x y) s = .next t ∧
      (x ≠ vf → (t.reg x).toNat = ((s.reg x).toNat + 256 - (s.reg y).toNat) % 256) ∧
      t.reg vf = (if (s.reg x).toNat ≥ (s.reg y).toNat then 1 else 0) ∧ t.pc = s.pc + 2 ∧ t.fbUpdated = false ∧
      Unchanged s t [x, vf] []) ∧
    ∃ t, exec (.subn x y) s = .next t ∧
      (x ≠ vf → (t.reg x).toNat = ((s.reg y).toNat + 256 - (s.reg x).toNat) % 256) ∧
      t.reg vf = (if (s.reg y).toNat ≥ (s.reg x).toNat then 1 else 0) ∧ t.pc = s.pc + 2 ∧ t.fbUpdated = false ∧
      Unchanged s t [x, vf] []

/-- R129, R131: SHR and SHL shift the source register by one, Vx or Vy as SHIFT_SOURCE says, into Vx, and VF is the bit
shifted out; with x = 15 VF ends as that bit. The source register is the spec's decision D8, for both values of the
parameter; the order of the two writes is D9. -/
def Obligations.ShiftsMoveOneBitIntoFlag : Prop :=
  ∀ (x y : Reg) (s : State) (src : Byte),
    src = (if s.params.shiftSource = .vx then s.reg x else s.reg y) →
    (∃ t, exec (.shr x y) s = .next t ∧ (x ≠ vf → (t.reg x).toNat = src.toNat / 2) ∧
      (t.reg vf).toNat = src.toNat % 2 ∧ t.pc = s.pc + 2 ∧ t.fbUpdated = false ∧ Unchanged s t [x, vf] []) ∧
    ∃ t, exec (.shl x y) s = .next t ∧ (x ≠ vf → (t.reg x).toNat = src.toNat * 2 % 256) ∧
      (t.reg vf).toNat = src.toNat / 128 ∧ t.pc = s.pc + 2 ∧ t.fbUpdated = false ∧ Unchanged s t [x, vf] []

/-- R132, R221: RND stores the drawn byte masked by nn, whatever the byte drawn, so no bit is set that nn lacks; it
writes no flag, and takes one draw: the next one is a free value (log 3). -/
def Obligations.RandomStoresMaskedDraw : Prop :=
  ∀ (x : Reg) (nn : Byte) (s : State),
    ∃ t, exec (.rnd x nn) s = .next t ∧
      (∀ k, (t.reg x).getLsbD k = (s.randByte.getLsbD k && nn.getLsbD k)) ∧ t.pc = s.pc + 2 ∧ t.fbUpdated = false ∧
      t.samples = s.samples + 1 ∧ Unchanged s t [x] [.randInput, .sampleCount]

/-! ### Index register and memory -/

/-- R151, R152, R153: LD I, ADD I and LD F set I, to the address, to the 16-bit sum without masking to 12 bits, to five
times the register value; VF is not written and nothing else changes. That ADD I wraps at 16 bits and leaves VF is the
spec's decision D11. -/
def Obligations.IndexInstructionsSetOnlyIndex : Prop :=
  ∀ (x : Reg) (nnn : BitVec 12) (s : State),
    (∃ t, exec (.ldI nnn) s = .next t ∧ t.i.toNat = nnn.toNat ∧ t.pc = s.pc + 2 ∧ t.fbUpdated = false ∧
      Unchanged s t [] [.index]) ∧
    (∃ t, exec (.addI x) s = .next t ∧ t.i.toNat = (s.i.toNat + (s.reg x).toNat) % 65536 ∧ t.pc = s.pc + 2 ∧
      t.fbUpdated = false ∧ Unchanged s t [] [.index]) ∧
    ∃ t, exec (.ldF x) s = .next t ∧ t.i.toNat = (s.reg x).toNat * 5 ∧ t.pc = s.pc + 2 ∧ t.fbUpdated = false ∧
      Unchanged s t [] [.index]

/-- R150, R154: when I + 2 is in range LD B stores the hundreds, tens and ones of Vx at I, I + 1 and I + 2 and leaves
every other byte and everything else, I too (the spec's decision D12). -/
def Obligations.BcdStoreWritesThreeDigits : Prop :=
  ∀ (x : Reg) (s : State), s.i.toNat + 2 < 4096 →
    ∃ t, exec (.ldB x) s = .next t ∧ (t.mem.get (s.ea 0)).toNat = (s.reg x).toNat / 100 ∧
      (t.mem.get (s.ea 1)).toNat = (s.reg x).toNat / 10 % 10 ∧ (t.mem.get (s.ea 2)).toNat = (s.reg x).toNat % 10 ∧
      (∀ a, a < s.ea 0 ∨ s.ea 3 ≤ a → t.mem.get a = s.mem.get a) ∧ t.pc = s.pc + 2 ∧ t.fbUpdated = false ∧
      Unchanged s t [] [.memory]

/-- R150, R155: when I + x is in range LD [I], Vx stores V0 to Vx at I to I + x and leaves every other byte and
everything else, I too (the spec's decision D12). -/
def Obligations.BlockStoreWritesRegistersInOrder : Prop :=
  ∀ (x : Reg) (s : State), s.i.toNat + x.val < 4096 →
    ∃ t, exec (.storeRegs x) s = .next t ∧ (∀ k : Reg, k.val ≤ x.val → t.mem.get (s.ea k.val) = s.reg k) ∧
      (∀ a, a < s.ea 0 ∨ s.ea (x.val + 1) ≤ a → t.mem.get a = s.mem.get a) ∧ t.pc = s.pc + 2 ∧ t.fbUpdated = false ∧
      Unchanged s t [] [.memory]

/-- R150, R156: when I + x is in range LD Vx, [I] loads V0 to Vx from I to I + x and leaves the registers above x, all
of memory and everything else, I too (the spec's decision D12). -/
def Obligations.BlockLoadReadsRegistersInOrder : Prop :=
  ∀ (x : Reg) (s : State), s.i.toNat + x.val < 4096 →
    ∃ t, exec (.loadRegs x) s = .next t ∧ (∀ k : Reg, k.val ≤ x.val → t.reg k = s.mem.get (s.ea k.val)) ∧
      (∀ k : Reg, x.val < k.val → t.reg k = s.reg k) ∧ t.pc = s.pc + 2 ∧ t.fbUpdated = false ∧
      Unchanged s t ((List.finRange 16).filter fun k => k.val ≤ x.val) []

/-- R52, R150, R201, R203: an access through I whose last byte is at 4096 or above halts with DATA_OUT_OF_RANGE and the
address max(I, 4096), never wrapped, and nothing is written; for LD B, both block transfers, and DRW with n ≥ 1. The
record and that nothing is written are the spec's decisions D23, D24. -/
def Obligations.DataOutOfRangeHalts : Prop :=
  ∀ (i : Instr) (s : State), 1 ≤ dataBytes i → 4096 ≤ s.i.toNat + dataBytes i - 1 →
    ∃ t, exec i s = .next t ∧
      HaltedFrom s t { cause := .dataOutOfRange, pc := s.pc, word := encode i, wordValid := true,
                       addr := BitVec.ofNat 17 (max s.i.toNat 4096) }

/-- R155, R156 ("Inverse of the above"): a block store followed, with I and memory as it left them, by a block load of
the same x gives the registers back whatever they hold by then. -/
def Obligations.BlockLoadInvertsBlockStore : Prop :=
  ∀ (x : Reg) (s t : State), s.i.toNat + x.val < 4096 → exec (.storeRegs x) s = .next t →
    ∀ t' : State, t'.i = t.i → (∀ a, t'.mem.get a = t.mem.get a) →
      ∃ u, exec (.loadRegs x) t' = .next u ∧ ∀ k : Reg, k.val ≤ x.val → u.reg k = s.reg k

/-- R62, R64, R239: the fetch after a block store sees the stored bytes, and the old ones elsewhere: the word fetched
next has a stored register's value in each byte that the store covers, the old byte in each other. Derived in the spec
from R50 and R62. -/
def Obligations.StoredBytesAreFetchedNext : Prop :=
  ∀ (x : Reg) (s : State), s.i.toNat + x.val < 4096 → s.pc.toNat + 3 < 4096 →
    ∃ t w, exec (.storeRegs x) s = .next t ∧ t.fetch = .ok w ∧
      (∀ k : Reg, k.val ≤ x.val → s.ea k.val = s.pc.toNat + 2 → w.toNat / 256 = (s.reg k).toNat) ∧
      (∀ k : Reg, k.val ≤ x.val → s.ea k.val = s.pc.toNat + 3 → w.toNat % 256 = (s.reg k).toNat) ∧
      (s.pc.toNat + 2 < s.ea 0 ∨ s.ea (x.val + 1) ≤ s.pc.toNat + 2 →
        w.toNat / 256 = (s.mem.get (s.pc.toNat + 2)).toNat) ∧
      (s.pc.toNat + 3 < s.ea 0 ∨ s.ea (x.val + 1) ≤ s.pc.toNat + 3 →
        w.toNat % 256 = (s.mem.get (s.pc.toNat + 3)).toNat)

/-! ### Display -/

/-- R171: CLS makes every cell 0, sets FB_UPDATED, and changes nothing else, VF included. -/
def Obligations.ClearScreenZeroesEveryCell : Prop :=
  ∀ s : State,
    ∃ t, exec .cls s = .next t ∧ (∀ row col, t.fb.get row col = false) ∧ t.pc = s.pc + 2 ∧ t.fbUpdated = true ∧
      Unchanged s t [] [.display]

/-- R172: with n = 0 or its bytes in range DRW inverts exactly the cells the sprite covers, each once, wrapped modulo 64
and 32; VF is 1 exactly when a covered cell was set, read before VF is written; memory, I and everything else stay. The
bit order is the spec's decision D13, n = 0 is D14. -/
def Obligations.DrawInvertsExactlyTheSpriteCells : Prop :=
  ∀ (x y : Reg) (n : Fin 16) (s : State), n.val = 0 ∨ s.i.toNat + n.val - 1 < 4096 →
    ∃ t, exec (.drw x y n) s = .next t ∧
      (∀ row col, (SpriteCovers s x y n.val row col → t.fb.get row col = !s.fb.get row col) ∧
        (¬SpriteCovers s x y n.val row col → t.fb.get row col = s.fb.get row col)) ∧
      ((∃ row col, SpriteCovers s x y n.val row col ∧ s.fb.get row col = true) → t.reg vf = 1) ∧
      ((¬∃ row col, SpriteCovers s x y n.val row col ∧ s.fb.get row col = true) → t.reg vf = 0) ∧
      t.pc = s.pc + 2 ∧ t.fbUpdated = true ∧ Unchanged s t [vf] [.display]

/-- R172, and W4 of 95_test_vectors.md: drawing the same sprite twice at the same coordinates gives the framebuffer
back, and from a clear framebuffer the second draw reports a collision exactly when the sprite has a set bit, while the
first reports none. The coordinates may stand in VF if the first draw leaves them there. -/
def Obligations.DrawingTwiceErases : Prop :=
  ∀ (x y : Reg) (n : Fin 16) (s t : State), n.val = 0 ∨ s.i.toNat + n.val - 1 < 4096 →
    exec (.drw x y n) s = .next t → t.reg x = s.reg x → t.reg y = s.reg y →
    ∃ u, exec (.drw x y n) t = .next u ∧ (∀ row col, u.fb.get row col = s.fb.get row col) ∧
      ((∀ row col, s.fb.get row col = false) → t.reg vf = 0 ∧
        (u.reg vf = 1 ↔ ∃ row col, SpriteCovers s x y n.val row col))

/-! ### Keys and timers -/

/-- R183, R184, R185: LD Vx, DT reads the delay timer; LD DT, Vx and LD ST, Vx set a timer; nothing else changes. For
every state and operand. -/
def Obligations.TimerTransfersMoveOneByte : Prop :=
  ∀ (x : Reg) (s : State),
    (∃ t, exec (.ldVxDt x) s = .next t ∧ t.reg x = s.dt ∧ t.pc = s.pc + 2 ∧ t.fbUpdated = false ∧
      Unchanged s t [x] []) ∧
    (∃ t, exec (.ldDtVx x) s = .next t ∧ t.dt = s.reg x ∧ t.pc = s.pc + 2 ∧ t.fbUpdated = false ∧
      Unchanged s t [] [.delayTimer]) ∧
    ∃ t, exec (.ldStVx x) s = .next t ∧ t.st = s.reg x ∧ t.pc = s.pc + 2 ∧ t.fbUpdated = false ∧
      Unchanged s t [] [.soundTimer]

/-- R180, R181, R182: with a key number below 16, or any under KEY_INDEX_OVERFLOW = MASK, which takes its low four bits,
SKP skips exactly when that key is pressed and SKNP exactly when it is not; the key input is sampled once, and what the
next sample finds is free (log 3). The parameter is the spec's decision D15. -/
def Obligations.KeySkipsFollowTheSampledKey : Prop :=
  ∀ (x : Reg) (s : State), (s.reg x).toNat < 16 ∨ s.params.keyIndexOverflow = .mask →
    (∃ t, exec (.skp x) s = .next t ∧
      t.pc = s.pc + (if s.keys.getLsbD ((s.reg x).toNat % 16) then 4 else 2) ∧ t.fbUpdated = false ∧
      t.samples = s.samples + 1 ∧ Unchanged s t [] [.keyInput, .sampleCount]) ∧
    ∃ t, exec (.sknp x) s = .next t ∧
      t.pc = s.pc + (if s.keys.getLsbD ((s.reg x).toNat % 16) then 2 else 4) ∧ t.fbUpdated = false ∧
      t.samples = s.samples + 1 ∧ Unchanged s t [] [.keyInput, .sampleCount]

/-- R180, R201, R203: under KEY_INDEX_OVERFLOW = FATAL a key number above 15 halts SKP and SKNP with KEY_OUT_OF_RANGE
and nothing is written. The parameter and its default are the spec's decision D15, the record D23 and D24. -/
def Obligations.KeyNumberAboveFifteenHalts : Prop :=
  ∀ (x : Reg) (s : State), 15 < (s.reg x).toNat → s.params.keyIndexOverflow = .fatal →
    (∃ t, exec (.skp x) s = .next t ∧
      HaltedFrom s t { cause := .keyOutOfRange, pc := s.pc, word := encode (.skp x), wordValid := true, addr := 0 }) ∧
    ∃ t, exec (.sknp x) s = .next t ∧
      HaltedFrom s t { cause := .keyOutOfRange, pc := s.pc, word := encode (.sknp x), wordValid := true, addr := 0 }

/-- R186: with a key pressed LD Vx, K stores the lowest-numbered one and goes on; with none it waits: PC stays and
nothing but FB_UPDATED changes (the sampled input apart, log 3). The lowest key is the spec's decision D16. -/
def Obligations.WaitForKeyTakesTheLowestOrWaits : Prop :=
  ∀ (x : Reg) (s : State),
    (∀ k, k < 16 → s.keys.getLsbD k = true → (∀ j < k, s.keys.getLsbD j = false) →
      ∃ t, exec (.ldVxK x) s = .next t ∧ (t.reg x).toNat = k ∧ t.pc = s.pc + 2 ∧ t.fbUpdated = false ∧
        t.samples = s.samples + 1 ∧ Unchanged s t [x] [.keyInput, .sampleCount]) ∧
    (s.keys = 0 →
      ∃ t, exec (.ldVxK x) s = .next t ∧ t.pc = s.pc ∧ t.fbUpdated = false ∧ t.samples = s.samples + 1 ∧
        Unchanged s t [] [.keyInput, .sampleCount])
end

