-- ==== Sys2Proof/Laws/Decode.lean ====
section
/-! SUPPORT. The fields of a word as numbers, the number of a packed word, and the fields read back from a packed word
(30_encoding.md R71, R72); the masks of R76 as conditions on fields. -/

namespace Sys2Proof

theorem fieldOp_eq (w : Word) : fieldOp w = w.toNat / 4096 := by
  have := w.isLt
  simp only [fieldOp, BitVec.extractLsb'_toNat, Nat.shiftRight_eq_div_pow]; omega

theorem fieldX_val (w : Word) : (fieldX w).val = w.toNat / 256 % 16 := by
  simp only [fieldX, BitVec.extractLsb'_toNat, Nat.shiftRight_eq_div_pow]

theorem fieldY_val (w : Word) : (fieldY w).val = w.toNat / 16 % 16 := by
  simp only [fieldY, BitVec.extractLsb'_toNat, Nat.shiftRight_eq_div_pow]

theorem fieldN_val (w : Word) : (fieldN w).val = w.toNat % 16 := by
  simp only [fieldN, BitVec.extractLsb'_toNat, Nat.shiftRight_eq_div_pow]; omega

theorem fieldNN_toNat (w : Word) : (fieldNN w).toNat = w.toNat % 256 := by
  simp only [fieldNN, BitVec.extractLsb'_toNat, Nat.shiftRight_eq_div_pow]; omega

theorem fieldNNN_toNat (w : Word) : (fieldNNN w).toNat = w.toNat % 4096 := by
  simp only [fieldNNN, BitVec.extractLsb'_toNat, Nat.shiftRight_eq_div_pow]; omega

theorem packA_toNat {op : Nat} (h : op < 16) (nnn : BitVec 12) : (packA op nnn).toNat = op * 4096 + nnn.toNat := by
  have := nnn.isLt
  simp only [packA, BitVec.toNat_ofNat]; omega

theorem packXNN_toNat {op : Nat} (h : op < 16) (x : Reg) (nn : Byte) :
    (packXNN op x nn).toNat = op * 4096 + x.val * 256 + nn.toNat := by
  have := nn.isLt
  have := x.isLt
  simp only [packXNN, BitVec.toNat_ofNat]; omega

theorem packXYN_toNat {op : Nat} (h : op < 16) (x y : Reg) (n : Fin 16) :
    (packXYN op x y n).toNat = op * 4096 + x.val * 256 + y.val * 16 + n.val := by
  have := n.isLt
  have := x.isLt
  have := y.isLt
  simp only [packXYN, BitVec.toNat_ofNat]; omega

section packed

variable {op : Nat} (h : op < 16) (x y : Reg) (n : Fin 16) (nn : Byte) (nnn : BitVec 12)
include h

theorem fieldOp_packA : fieldOp (packA op nnn) = op := by
  have := nnn.isLt
  rw [fieldOp_eq, packA_toNat h]; omega

theorem fieldNNN_packA : fieldNNN (packA op nnn) = nnn := by
  have := nnn.isLt
  apply BitVec.eq_of_toNat_eq
  rw [fieldNNN_toNat, packA_toNat h]; omega

theorem fieldOp_packXNN : fieldOp (packXNN op x nn) = op := by
  have := nn.isLt
  have := x.isLt
  rw [fieldOp_eq, packXNN_toNat h]; omega

theorem fieldX_packXNN : fieldX (packXNN op x nn) = x := by
  have := nn.isLt
  have := x.isLt
  apply Fin.ext
  rw [fieldX_val, packXNN_toNat h]; omega

theorem fieldNN_packXNN : fieldNN (packXNN op x nn) = nn := by
  have := nn.isLt
  apply BitVec.eq_of_toNat_eq
  rw [fieldNN_toNat, packXNN_toNat h]; omega

theorem fieldOp_packXYN : fieldOp (packXYN op x y n) = op := by
  have := n.isLt
  have := x.isLt
  have := y.isLt
  rw [fieldOp_eq, packXYN_toNat h]; omega

theorem fieldX_packXYN : fieldX (packXYN op x y n) = x := by
  have := n.isLt
  have := x.isLt
  have := y.isLt
  apply Fin.ext
  rw [fieldX_val, packXYN_toNat h]; omega

theorem fieldY_packXYN : fieldY (packXYN op x y n) = y := by
  have := n.isLt
  have := x.isLt
  have := y.isLt
  apply Fin.ext
  rw [fieldY_val, packXYN_toNat h]; omega

theorem fieldN_packXYN : fieldN (packXYN op x y n) = n := by
  have := n.isLt
  apply Fin.ext
  rw [fieldN_val, packXYN_toNat h]; omega

end packed

/-- Mask F000 keeps the first nibble. -/
theorem and_F000_toNat (w : Word) : (w &&& 0xF000#16).toNat = w.toNat / 4096 * 4096 := by
  have h : w &&& 0xF000#16 = (w >>> 12) <<< 12 := by
    apply BitVec.eq_of_getLsbD_eq
    intro k hk
    interval_cases k <;> simp
  have := w.isLt
  rw [h, BitVec.toNat_shiftLeft, BitVec.toNat_ushiftRight, Nat.shiftLeft_eq, Nat.shiftRight_eq_div_pow]; omega

/-- Mask F00F keeps the first and the last nibble. -/
theorem and_F00F_toNat (w : Word) : (w &&& 0xF00F#16).toNat = w.toNat / 4096 * 4096 + w.toNat % 16 := by
  have h : w &&& 0xF00F#16 = ((w >>> 12) <<< 12) + ((w <<< 12) >>> 12) := by
    rw [BitVec.add_eq_or_of_and_eq_zero]
    · apply BitVec.eq_of_getLsbD_eq
      intro k hk
      interval_cases k <;> simp
    · apply BitVec.eq_of_getLsbD_eq
      intro k hk
      interval_cases k <;> simp
  have := w.isLt
  rw [h, BitVec.toNat_add, BitVec.toNat_shiftLeft, BitVec.toNat_ushiftRight, BitVec.toNat_ushiftRight,
    BitVec.toNat_shiftLeft, Nat.shiftLeft_eq, Nat.shiftRight_eq_div_pow, Nat.shiftRight_eq_div_pow, Nat.shiftLeft_eq]
  omega

/-- Mask F0FF keeps the first nibble and the low byte. -/
theorem and_F0FF_toNat (w : Word) : (w &&& 0xF0FF#16).toNat = w.toNat / 4096 * 4096 + w.toNat % 256 := by
  have h : w &&& 0xF0FF#16 = ((w >>> 12) <<< 12) + ((w <<< 8) >>> 8) := by
    rw [BitVec.add_eq_or_of_and_eq_zero]
    · apply BitVec.eq_of_getLsbD_eq
      intro k hk
      interval_cases k <;> simp
    · apply BitVec.eq_of_getLsbD_eq
      intro k hk
      interval_cases k <;> simp
  have := w.isLt
  rw [h, BitVec.toNat_add, BitVec.toNat_shiftLeft, BitVec.toNat_ushiftRight, BitVec.toNat_ushiftRight,
    BitVec.toNat_shiftLeft, Nat.shiftLeft_eq, Nat.shiftRight_eq_div_pow, Nat.shiftRight_eq_div_pow, Nat.shiftLeft_eq]
  omega

/-- What a row admits, as equality of numbers. -/
theorem OpcodeRow.admits_iff (r : OpcodeRow) (w : Word) :
    r.admits w = true ↔ (w &&& r.mask).toNat = r.pattern.toNat := by
  rw [BitVec.toNat_inj]; simp [OpcodeRow.admits]

end Sys2Proof
end

