-- ==== Sys2Proof/Laws/State.lean ====
section
/-! SUPPORT. One lemma per field per update of the state, true by `rfl`, and what a register reads after each update:
no later proof unfolds a record update. -/

namespace Sys2Proof.Machine

@[simp] theorem State.setReg_mem (s : State) (x : Reg) (b : Byte) : (s.setReg x b).mem = s.mem := rfl
@[simp] theorem State.setReg_v (s : State) (x : Reg) (b : Byte) : (s.setReg x b).v = s.v.set x b := rfl
@[simp] theorem State.setReg_i (s : State) (x : Reg) (b : Byte) : (s.setReg x b).i = s.i := rfl
@[simp] theorem State.setReg_pc (s : State) (x : Reg) (b : Byte) : (s.setReg x b).pc = s.pc := rfl
@[simp] theorem State.setReg_sp (s : State) (x : Reg) (b : Byte) : (s.setReg x b).sp = s.sp := rfl
@[simp] theorem State.setReg_stack (s : State) (x : Reg) (b : Byte) : (s.setReg x b).stack = s.stack := rfl
@[simp] theorem State.setReg_dt (s : State) (x : Reg) (b : Byte) : (s.setReg x b).dt = s.dt := rfl
@[simp] theorem State.setReg_st (s : State) (x : Reg) (b : Byte) : (s.setReg x b).st = s.st := rfl
@[simp] theorem State.setReg_fb (s : State) (x : Reg) (b : Byte) : (s.setReg x b).fb = s.fb := rfl
@[simp] theorem State.setReg_halted (s : State) (x : Reg) (b : Byte) : (s.setReg x b).halted = s.halted := rfl
@[simp] theorem State.setReg_fault (s : State) (x : Reg) (b : Byte) : (s.setReg x b).fault = s.fault := rfl
@[simp] theorem State.setReg_fbUpdated (s : State) (x : Reg) (b : Byte) : (s.setReg x b).fbUpdated = s.fbUpdated := rfl
@[simp] theorem State.setReg_loadErr (s : State) (x : Reg) (b : Byte) : (s.setReg x b).loadErr = s.loadErr := rfl
@[simp] theorem State.setReg_params (s : State) (x : Reg) (b : Byte) : (s.setReg x b).params = s.params := rfl
@[simp] theorem State.setReg_keys (s : State) (x : Reg) (b : Byte) : (s.setReg x b).keys = s.keys := rfl
@[simp] theorem State.setReg_randByte (s : State) (x : Reg) (b : Byte) : (s.setReg x b).randByte = s.randByte := rfl
@[simp] theorem State.setReg_samples (s : State) (x : Reg) (b : Byte) : (s.setReg x b).samples = s.samples := rfl
@[simp] theorem State.setReg_agenda (s : State) (x : Reg) (b : Byte) : (s.setReg x b).agenda = s.agenda := rfl

@[simp] theorem State.setI_mem (s : State) (w : Word) : (s.setI w).mem = s.mem := rfl
@[simp] theorem State.setI_v (s : State) (w : Word) : (s.setI w).v = s.v := rfl
@[simp] theorem State.setI_i (s : State) (w : Word) : (s.setI w).i = w := rfl
@[simp] theorem State.setI_pc (s : State) (w : Word) : (s.setI w).pc = s.pc := rfl
@[simp] theorem State.setI_sp (s : State) (w : Word) : (s.setI w).sp = s.sp := rfl
@[simp] theorem State.setI_stack (s : State) (w : Word) : (s.setI w).stack = s.stack := rfl
@[simp] theorem State.setI_dt (s : State) (w : Word) : (s.setI w).dt = s.dt := rfl
@[simp] theorem State.setI_st (s : State) (w : Word) : (s.setI w).st = s.st := rfl
@[simp] theorem State.setI_fb (s : State) (w : Word) : (s.setI w).fb = s.fb := rfl
@[simp] theorem State.setI_halted (s : State) (w : Word) : (s.setI w).halted = s.halted := rfl
@[simp] theorem State.setI_fault (s : State) (w : Word) : (s.setI w).fault = s.fault := rfl
@[simp] theorem State.setI_fbUpdated (s : State) (w : Word) : (s.setI w).fbUpdated = s.fbUpdated := rfl
@[simp] theorem State.setI_loadErr (s : State) (w : Word) : (s.setI w).loadErr = s.loadErr := rfl
@[simp] theorem State.setI_params (s : State) (w : Word) : (s.setI w).params = s.params := rfl
@[simp] theorem State.setI_keys (s : State) (w : Word) : (s.setI w).keys = s.keys := rfl
@[simp] theorem State.setI_randByte (s : State) (w : Word) : (s.setI w).randByte = s.randByte := rfl
@[simp] theorem State.setI_samples (s : State) (w : Word) : (s.setI w).samples = s.samples := rfl
@[simp] theorem State.setI_agenda (s : State) (w : Word) : (s.setI w).agenda = s.agenda := rfl

@[simp] theorem State.setRegsUpTo_mem (s : State) (x : Reg) (bs : List Byte) : (s.setRegsUpTo x bs).mem = s.mem := rfl
@[simp] theorem State.setRegsUpTo_i (s : State) (x : Reg) (bs : List Byte) : (s.setRegsUpTo x bs).i = s.i := rfl
@[simp] theorem State.setRegsUpTo_pc (s : State) (x : Reg) (bs : List Byte) : (s.setRegsUpTo x bs).pc = s.pc := rfl
@[simp] theorem State.setRegsUpTo_sp (s : State) (x : Reg) (bs : List Byte) : (s.setRegsUpTo x bs).sp = s.sp := rfl
@[simp] theorem State.setRegsUpTo_stack (s : State) (x : Reg) (bs : List Byte) : (s.setRegsUpTo x bs).stack = s.stack := rfl
@[simp] theorem State.setRegsUpTo_dt (s : State) (x : Reg) (bs : List Byte) : (s.setRegsUpTo x bs).dt = s.dt := rfl
@[simp] theorem State.setRegsUpTo_st (s : State) (x : Reg) (bs : List Byte) : (s.setRegsUpTo x bs).st = s.st := rfl
@[simp] theorem State.setRegsUpTo_fb (s : State) (x : Reg) (bs : List Byte) : (s.setRegsUpTo x bs).fb = s.fb := rfl
@[simp] theorem State.setRegsUpTo_halted (s : State) (x : Reg) (bs : List Byte) : (s.setRegsUpTo x bs).halted = s.halted := rfl
@[simp] theorem State.setRegsUpTo_fault (s : State) (x : Reg) (bs : List Byte) : (s.setRegsUpTo x bs).fault = s.fault := rfl
@[simp] theorem State.setRegsUpTo_fbUpdated (s : State) (x : Reg) (bs : List Byte) : (s.setRegsUpTo x bs).fbUpdated = s.fbUpdated := rfl
@[simp] theorem State.setRegsUpTo_loadErr (s : State) (x : Reg) (bs : List Byte) : (s.setRegsUpTo x bs).loadErr = s.loadErr := rfl
@[simp] theorem State.setRegsUpTo_params (s : State) (x : Reg) (bs : List Byte) : (s.setRegsUpTo x bs).params = s.params := rfl
@[simp] theorem State.setRegsUpTo_keys (s : State) (x : Reg) (bs : List Byte) : (s.setRegsUpTo x bs).keys = s.keys := rfl
@[simp] theorem State.setRegsUpTo_randByte (s : State) (x : Reg) (bs : List Byte) : (s.setRegsUpTo x bs).randByte = s.randByte := rfl
@[simp] theorem State.setRegsUpTo_samples (s : State) (x : Reg) (bs : List Byte) : (s.setRegsUpTo x bs).samples = s.samples := rfl
@[simp] theorem State.setRegsUpTo_agenda (s : State) (x : Reg) (bs : List Byte) : (s.setRegsUpTo x bs).agenda = s.agenda := rfl

@[simp] theorem State.setMem_mem (s : State) (m : Memory) : (s.setMem m).mem = m := rfl
@[simp] theorem State.setMem_v (s : State) (m : Memory) : (s.setMem m).v = s.v := rfl
@[simp] theorem State.setMem_i (s : State) (m : Memory) : (s.setMem m).i = s.i := rfl
@[simp] theorem State.setMem_pc (s : State) (m : Memory) : (s.setMem m).pc = s.pc := rfl
@[simp] theorem State.setMem_sp (s : State) (m : Memory) : (s.setMem m).sp = s.sp := rfl
@[simp] theorem State.setMem_stack (s : State) (m : Memory) : (s.setMem m).stack = s.stack := rfl
@[simp] theorem State.setMem_dt (s : State) (m : Memory) : (s.setMem m).dt = s.dt := rfl
@[simp] theorem State.setMem_st (s : State) (m : Memory) : (s.setMem m).st = s.st := rfl
@[simp] theorem State.setMem_fb (s : State) (m : Memory) : (s.setMem m).fb = s.fb := rfl
@[simp] theorem State.setMem_halted (s : State) (m : Memory) : (s.setMem m).halted = s.halted := rfl
@[simp] theorem State.setMem_fault (s : State) (m : Memory) : (s.setMem m).fault = s.fault := rfl
@[simp] theorem State.setMem_fbUpdated (s : State) (m : Memory) : (s.setMem m).fbUpdated = s.fbUpdated := rfl
@[simp] theorem State.setMem_loadErr (s : State) (m : Memory) : (s.setMem m).loadErr = s.loadErr := rfl
@[simp] theorem State.setMem_params (s : State) (m : Memory) : (s.setMem m).params = s.params := rfl
@[simp] theorem State.setMem_keys (s : State) (m : Memory) : (s.setMem m).keys = s.keys := rfl
@[simp] theorem State.setMem_randByte (s : State) (m : Memory) : (s.setMem m).randByte = s.randByte := rfl
@[simp] theorem State.setMem_samples (s : State) (m : Memory) : (s.setMem m).samples = s.samples := rfl
@[simp] theorem State.setMem_agenda (s : State) (m : Memory) : (s.setMem m).agenda = s.agenda := rfl

@[simp] theorem State.setFb_mem (s : State) (fb : Framebuffer) : (s.setFb fb).mem = s.mem := rfl
@[simp] theorem State.setFb_v (s : State) (fb : Framebuffer) : (s.setFb fb).v = s.v := rfl
@[simp] theorem State.setFb_i (s : State) (fb : Framebuffer) : (s.setFb fb).i = s.i := rfl
@[simp] theorem State.setFb_pc (s : State) (fb : Framebuffer) : (s.setFb fb).pc = s.pc := rfl
@[simp] theorem State.setFb_sp (s : State) (fb : Framebuffer) : (s.setFb fb).sp = s.sp := rfl
@[simp] theorem State.setFb_stack (s : State) (fb : Framebuffer) : (s.setFb fb).stack = s.stack := rfl
@[simp] theorem State.setFb_dt (s : State) (fb : Framebuffer) : (s.setFb fb).dt = s.dt := rfl
@[simp] theorem State.setFb_st (s : State) (fb : Framebuffer) : (s.setFb fb).st = s.st := rfl
@[simp] theorem State.setFb_fb (s : State) (fb : Framebuffer) : (s.setFb fb).fb = fb := rfl
@[simp] theorem State.setFb_halted (s : State) (fb : Framebuffer) : (s.setFb fb).halted = s.halted := rfl
@[simp] theorem State.setFb_fault (s : State) (fb : Framebuffer) : (s.setFb fb).fault = s.fault := rfl
@[simp] theorem State.setFb_fbUpdated (s : State) (fb : Framebuffer) : (s.setFb fb).fbUpdated = s.fbUpdated := rfl
@[simp] theorem State.setFb_loadErr (s : State) (fb : Framebuffer) : (s.setFb fb).loadErr = s.loadErr := rfl
@[simp] theorem State.setFb_params (s : State) (fb : Framebuffer) : (s.setFb fb).params = s.params := rfl
@[simp] theorem State.setFb_keys (s : State) (fb : Framebuffer) : (s.setFb fb).keys = s.keys := rfl
@[simp] theorem State.setFb_randByte (s : State) (fb : Framebuffer) : (s.setFb fb).randByte = s.randByte := rfl
@[simp] theorem State.setFb_samples (s : State) (fb : Framebuffer) : (s.setFb fb).samples = s.samples := rfl
@[simp] theorem State.setFb_agenda (s : State) (fb : Framebuffer) : (s.setFb fb).agenda = s.agenda := rfl

@[simp] theorem State.setDt_mem (s : State) (b : Byte) : (s.setDt b).mem = s.mem := rfl
@[simp] theorem State.setDt_v (s : State) (b : Byte) : (s.setDt b).v = s.v := rfl
@[simp] theorem State.setDt_i (s : State) (b : Byte) : (s.setDt b).i = s.i := rfl
@[simp] theorem State.setDt_pc (s : State) (b : Byte) : (s.setDt b).pc = s.pc := rfl
@[simp] theorem State.setDt_sp (s : State) (b : Byte) : (s.setDt b).sp = s.sp := rfl
@[simp] theorem State.setDt_stack (s : State) (b : Byte) : (s.setDt b).stack = s.stack := rfl
@[simp] theorem State.setDt_dt (s : State) (b : Byte) : (s.setDt b).dt = b := rfl
@[simp] theorem State.setDt_st (s : State) (b : Byte) : (s.setDt b).st = s.st := rfl
@[simp] theorem State.setDt_fb (s : State) (b : Byte) : (s.setDt b).fb = s.fb := rfl
@[simp] theorem State.setDt_halted (s : State) (b : Byte) : (s.setDt b).halted = s.halted := rfl
@[simp] theorem State.setDt_fault (s : State) (b : Byte) : (s.setDt b).fault = s.fault := rfl
@[simp] theorem State.setDt_fbUpdated (s : State) (b : Byte) : (s.setDt b).fbUpdated = s.fbUpdated := rfl
@[simp] theorem State.setDt_loadErr (s : State) (b : Byte) : (s.setDt b).loadErr = s.loadErr := rfl
@[simp] theorem State.setDt_params (s : State) (b : Byte) : (s.setDt b).params = s.params := rfl
@[simp] theorem State.setDt_keys (s : State) (b : Byte) : (s.setDt b).keys = s.keys := rfl
@[simp] theorem State.setDt_randByte (s : State) (b : Byte) : (s.setDt b).randByte = s.randByte := rfl
@[simp] theorem State.setDt_samples (s : State) (b : Byte) : (s.setDt b).samples = s.samples := rfl
@[simp] theorem State.setDt_agenda (s : State) (b : Byte) : (s.setDt b).agenda = s.agenda := rfl

@[simp] theorem State.setSt_mem (s : State) (b : Byte) : (s.setSt b).mem = s.mem := rfl
@[simp] theorem State.setSt_v (s : State) (b : Byte) : (s.setSt b).v = s.v := rfl
@[simp] theorem State.setSt_i (s : State) (b : Byte) : (s.setSt b).i = s.i := rfl
@[simp] theorem State.setSt_pc (s : State) (b : Byte) : (s.setSt b).pc = s.pc := rfl
@[simp] theorem State.setSt_sp (s : State) (b : Byte) : (s.setSt b).sp = s.sp := rfl
@[simp] theorem State.setSt_stack (s : State) (b : Byte) : (s.setSt b).stack = s.stack := rfl
@[simp] theorem State.setSt_dt (s : State) (b : Byte) : (s.setSt b).dt = s.dt := rfl
@[simp] theorem State.setSt_st (s : State) (b : Byte) : (s.setSt b).st = b := rfl
@[simp] theorem State.setSt_fb (s : State) (b : Byte) : (s.setSt b).fb = s.fb := rfl
@[simp] theorem State.setSt_halted (s : State) (b : Byte) : (s.setSt b).halted = s.halted := rfl
@[simp] theorem State.setSt_fault (s : State) (b : Byte) : (s.setSt b).fault = s.fault := rfl
@[simp] theorem State.setSt_fbUpdated (s : State) (b : Byte) : (s.setSt b).fbUpdated = s.fbUpdated := rfl
@[simp] theorem State.setSt_loadErr (s : State) (b : Byte) : (s.setSt b).loadErr = s.loadErr := rfl
@[simp] theorem State.setSt_params (s : State) (b : Byte) : (s.setSt b).params = s.params := rfl
@[simp] theorem State.setSt_keys (s : State) (b : Byte) : (s.setSt b).keys = s.keys := rfl
@[simp] theorem State.setSt_randByte (s : State) (b : Byte) : (s.setSt b).randByte = s.randByte := rfl
@[simp] theorem State.setSt_samples (s : State) (b : Byte) : (s.setSt b).samples = s.samples := rfl
@[simp] theorem State.setSt_agenda (s : State) (b : Byte) : (s.setSt b).agenda = s.agenda := rfl

@[simp] theorem State.setRegAndFlag_mem (s : State) (x : Reg) (r f : Byte) : (s.setRegAndFlag x r f).mem = s.mem := rfl
@[simp] theorem State.setRegAndFlag_v (s : State) (x : Reg) (r f : Byte) : (s.setRegAndFlag x r f).v = (s.v.set x r).set vf f := rfl
@[simp] theorem State.setRegAndFlag_i (s : State) (x : Reg) (r f : Byte) : (s.setRegAndFlag x r f).i = s.i := rfl
@[simp] theorem State.setRegAndFlag_pc (s : State) (x : Reg) (r f : Byte) : (s.setRegAndFlag x r f).pc = s.pc := rfl
@[simp] theorem State.setRegAndFlag_sp (s : State) (x : Reg) (r f : Byte) : (s.setRegAndFlag x r f).sp = s.sp := rfl
@[simp] theorem State.setRegAndFlag_stack (s : State) (x : Reg) (r f : Byte) : (s.setRegAndFlag x r f).stack = s.stack := rfl
@[simp] theorem State.setRegAndFlag_dt (s : State) (x : Reg) (r f : Byte) : (s.setRegAndFlag x r f).dt = s.dt := rfl
@[simp] theorem State.setRegAndFlag_st (s : State) (x : Reg) (r f : Byte) : (s.setRegAndFlag x r f).st = s.st := rfl
@[simp] theorem State.setRegAndFlag_fb (s : State) (x : Reg) (r f : Byte) : (s.setRegAndFlag x r f).fb = s.fb := rfl
@[simp] theorem State.setRegAndFlag_halted (s : State) (x : Reg) (r f : Byte) : (s.setRegAndFlag x r f).halted = s.halted := rfl
@[simp] theorem State.setRegAndFlag_fault (s : State) (x : Reg) (r f : Byte) : (s.setRegAndFlag x r f).fault = s.fault := rfl
@[simp] theorem State.setRegAndFlag_fbUpdated (s : State) (x : Reg) (r f : Byte) : (s.setRegAndFlag x r f).fbUpdated = s.fbUpdated := rfl
@[simp] theorem State.setRegAndFlag_loadErr (s : State) (x : Reg) (r f : Byte) : (s.setRegAndFlag x r f).loadErr = s.loadErr := rfl
@[simp] theorem State.setRegAndFlag_params (s : State) (x : Reg) (r f : Byte) : (s.setRegAndFlag x r f).params = s.params := rfl
@[simp] theorem State.setRegAndFlag_keys (s : State) (x : Reg) (r f : Byte) : (s.setRegAndFlag x r f).keys = s.keys := rfl
@[simp] theorem State.setRegAndFlag_randByte (s : State) (x : Reg) (r f : Byte) : (s.setRegAndFlag x r f).randByte = s.randByte := rfl
@[simp] theorem State.setRegAndFlag_samples (s : State) (x : Reg) (r f : Byte) : (s.setRegAndFlag x r f).samples = s.samples := rfl
@[simp] theorem State.setRegAndFlag_agenda (s : State) (x : Reg) (r f : Byte) : (s.setRegAndFlag x r f).agenda = s.agenda := rfl

@[simp] theorem State.complete_mem (s : State) (p : Word) (d : Bool) : (s.complete p d).mem = s.mem := rfl
@[simp] theorem State.complete_v (s : State) (p : Word) (d : Bool) : (s.complete p d).v = s.v := rfl
@[simp] theorem State.complete_i (s : State) (p : Word) (d : Bool) : (s.complete p d).i = s.i := rfl
@[simp] theorem State.complete_pc (s : State) (p : Word) (d : Bool) : (s.complete p d).pc = p := rfl
@[simp] theorem State.complete_sp (s : State) (p : Word) (d : Bool) : (s.complete p d).sp = s.sp := rfl
@[simp] theorem State.complete_stack (s : State) (p : Word) (d : Bool) : (s.complete p d).stack = s.stack := rfl
@[simp] theorem State.complete_dt (s : State) (p : Word) (d : Bool) : (s.complete p d).dt = s.dt := rfl
@[simp] theorem State.complete_st (s : State) (p : Word) (d : Bool) : (s.complete p d).st = s.st := rfl
@[simp] theorem State.complete_fb (s : State) (p : Word) (d : Bool) : (s.complete p d).fb = s.fb := rfl
@[simp] theorem State.complete_halted (s : State) (p : Word) (d : Bool) : (s.complete p d).halted = s.halted := rfl
@[simp] theorem State.complete_fault (s : State) (p : Word) (d : Bool) : (s.complete p d).fault = s.fault := rfl
@[simp] theorem State.complete_fbUpdated (s : State) (p : Word) (d : Bool) : (s.complete p d).fbUpdated = d := rfl
@[simp] theorem State.complete_loadErr (s : State) (p : Word) (d : Bool) : (s.complete p d).loadErr = s.loadErr := rfl
@[simp] theorem State.complete_params (s : State) (p : Word) (d : Bool) : (s.complete p d).params = s.params := rfl
@[simp] theorem State.complete_keys (s : State) (p : Word) (d : Bool) : (s.complete p d).keys = s.keys := rfl
@[simp] theorem State.complete_randByte (s : State) (p : Word) (d : Bool) : (s.complete p d).randByte = s.randByte := rfl
@[simp] theorem State.complete_samples (s : State) (p : Word) (d : Bool) : (s.complete p d).samples = s.samples := rfl
@[simp] theorem State.complete_agenda (s : State) (p : Word) (d : Bool) : (s.complete p d).agenda = s.agenda := rfl

@[simp] theorem State.advance_mem (s : State) (d : Bool) : (s.advance d).mem = s.mem := rfl
@[simp] theorem State.advance_v (s : State) (d : Bool) : (s.advance d).v = s.v := rfl
@[simp] theorem State.advance_i (s : State) (d : Bool) : (s.advance d).i = s.i := rfl
@[simp] theorem State.advance_pc (s : State) (d : Bool) : (s.advance d).pc = s.pc + 2 := rfl
@[simp] theorem State.advance_sp (s : State) (d : Bool) : (s.advance d).sp = s.sp := rfl
@[simp] theorem State.advance_stack (s : State) (d : Bool) : (s.advance d).stack = s.stack := rfl
@[simp] theorem State.advance_dt (s : State) (d : Bool) : (s.advance d).dt = s.dt := rfl
@[simp] theorem State.advance_st (s : State) (d : Bool) : (s.advance d).st = s.st := rfl
@[simp] theorem State.advance_fb (s : State) (d : Bool) : (s.advance d).fb = s.fb := rfl
@[simp] theorem State.advance_halted (s : State) (d : Bool) : (s.advance d).halted = s.halted := rfl
@[simp] theorem State.advance_fault (s : State) (d : Bool) : (s.advance d).fault = s.fault := rfl
@[simp] theorem State.advance_fbUpdated (s : State) (d : Bool) : (s.advance d).fbUpdated = d := rfl
@[simp] theorem State.advance_loadErr (s : State) (d : Bool) : (s.advance d).loadErr = s.loadErr := rfl
@[simp] theorem State.advance_params (s : State) (d : Bool) : (s.advance d).params = s.params := rfl
@[simp] theorem State.advance_keys (s : State) (d : Bool) : (s.advance d).keys = s.keys := rfl
@[simp] theorem State.advance_randByte (s : State) (d : Bool) : (s.advance d).randByte = s.randByte := rfl
@[simp] theorem State.advance_samples (s : State) (d : Bool) : (s.advance d).samples = s.samples := rfl
@[simp] theorem State.advance_agenda (s : State) (d : Bool) : (s.advance d).agenda = s.agenda := rfl

@[simp] theorem State.skipIf_mem (s : State) (b : Bool) : (s.skipIf b).mem = s.mem := rfl
@[simp] theorem State.skipIf_v (s : State) (b : Bool) : (s.skipIf b).v = s.v := rfl
@[simp] theorem State.skipIf_i (s : State) (b : Bool) : (s.skipIf b).i = s.i := rfl
@[simp] theorem State.skipIf_pc (s : State) (b : Bool) : (s.skipIf b).pc = if b then s.pc + 4 else s.pc + 2 := rfl
@[simp] theorem State.skipIf_sp (s : State) (b : Bool) : (s.skipIf b).sp = s.sp := rfl
@[simp] theorem State.skipIf_stack (s : State) (b : Bool) : (s.skipIf b).stack = s.stack := rfl
@[simp] theorem State.skipIf_dt (s : State) (b : Bool) : (s.skipIf b).dt = s.dt := rfl
@[simp] theorem State.skipIf_st (s : State) (b : Bool) : (s.skipIf b).st = s.st := rfl
@[simp] theorem State.skipIf_fb (s : State) (b : Bool) : (s.skipIf b).fb = s.fb := rfl
@[simp] theorem State.skipIf_halted (s : State) (b : Bool) : (s.skipIf b).halted = s.halted := rfl
@[simp] theorem State.skipIf_fault (s : State) (b : Bool) : (s.skipIf b).fault = s.fault := rfl
@[simp] theorem State.skipIf_fbUpdated (s : State) (b : Bool) : (s.skipIf b).fbUpdated = false := rfl
@[simp] theorem State.skipIf_loadErr (s : State) (b : Bool) : (s.skipIf b).loadErr = s.loadErr := rfl
@[simp] theorem State.skipIf_params (s : State) (b : Bool) : (s.skipIf b).params = s.params := rfl
@[simp] theorem State.skipIf_keys (s : State) (b : Bool) : (s.skipIf b).keys = s.keys := rfl
@[simp] theorem State.skipIf_randByte (s : State) (b : Bool) : (s.skipIf b).randByte = s.randByte := rfl
@[simp] theorem State.skipIf_samples (s : State) (b : Bool) : (s.skipIf b).samples = s.samples := rfl
@[simp] theorem State.skipIf_agenda (s : State) (b : Bool) : (s.skipIf b).agenda = s.agenda := rfl

@[simp] theorem State.halt_mem (s : State) (c : Cause) (w : Option Word) (a : Nat) : (s.halt c w a).mem = s.mem := rfl
@[simp] theorem State.halt_v (s : State) (c : Cause) (w : Option Word) (a : Nat) : (s.halt c w a).v = s.v := rfl
@[simp] theorem State.halt_i (s : State) (c : Cause) (w : Option Word) (a : Nat) : (s.halt c w a).i = s.i := rfl
@[simp] theorem State.halt_pc (s : State) (c : Cause) (w : Option Word) (a : Nat) : (s.halt c w a).pc = s.pc := rfl
@[simp] theorem State.halt_sp (s : State) (c : Cause) (w : Option Word) (a : Nat) : (s.halt c w a).sp = s.sp := rfl
@[simp] theorem State.halt_stack (s : State) (c : Cause) (w : Option Word) (a : Nat) : (s.halt c w a).stack = s.stack := rfl
@[simp] theorem State.halt_dt (s : State) (c : Cause) (w : Option Word) (a : Nat) : (s.halt c w a).dt = s.dt := rfl
@[simp] theorem State.halt_st (s : State) (c : Cause) (w : Option Word) (a : Nat) : (s.halt c w a).st = s.st := rfl
@[simp] theorem State.halt_fb (s : State) (c : Cause) (w : Option Word) (a : Nat) : (s.halt c w a).fb = s.fb := rfl
@[simp] theorem State.halt_halted (s : State) (c : Cause) (w : Option Word) (a : Nat) : (s.halt c w a).halted = true := rfl
@[simp] theorem State.halt_fault (s : State) (c : Cause) (w : Option Word) (a : Nat) : (s.halt c w a).fault = { cause := c, pc := s.pc, word := w.getD 0, wordValid := w.isSome, addr := BitVec.ofNat 17 a } := rfl
@[simp] theorem State.halt_fbUpdated (s : State) (c : Cause) (w : Option Word) (a : Nat) : (s.halt c w a).fbUpdated = s.fbUpdated := rfl
@[simp] theorem State.halt_loadErr (s : State) (c : Cause) (w : Option Word) (a : Nat) : (s.halt c w a).loadErr = s.loadErr := rfl
@[simp] theorem State.halt_params (s : State) (c : Cause) (w : Option Word) (a : Nat) : (s.halt c w a).params = s.params := rfl
@[simp] theorem State.halt_keys (s : State) (c : Cause) (w : Option Word) (a : Nat) : (s.halt c w a).keys = s.keys := rfl
@[simp] theorem State.halt_randByte (s : State) (c : Cause) (w : Option Word) (a : Nat) : (s.halt c w a).randByte = s.randByte := rfl
@[simp] theorem State.halt_samples (s : State) (c : Cause) (w : Option Word) (a : Nat) : (s.halt c w a).samples = s.samples := rfl
@[simp] theorem State.halt_agenda (s : State) (c : Cause) (w : Option Word) (a : Nat) : (s.halt c w a).agenda = s.agenda := rfl

@[simp] theorem State.resetRequest_mem (s : State) : s.resetRequest.mem = s.mem := rfl
@[simp] theorem State.resetRequest_v (s : State) : s.resetRequest.v = .replicate 16 0 := rfl
@[simp] theorem State.resetRequest_i (s : State) : s.resetRequest.i = 0 := rfl
@[simp] theorem State.resetRequest_pc (s : State) : s.resetRequest.pc = Config.resetPc := rfl
@[simp] theorem State.resetRequest_sp (s : State) : s.resetRequest.sp = 0 := rfl
@[simp] theorem State.resetRequest_stack (s : State) : s.resetRequest.stack = .replicate Config.stackDepth 0 := rfl
@[simp] theorem State.resetRequest_dt (s : State) : s.resetRequest.dt = 0 := rfl
@[simp] theorem State.resetRequest_st (s : State) : s.resetRequest.st = 0 := rfl
@[simp] theorem State.resetRequest_fb (s : State) : s.resetRequest.fb = Framebuffer.clear := rfl
@[simp] theorem State.resetRequest_halted (s : State) : s.resetRequest.halted = false := rfl
@[simp] theorem State.resetRequest_fault (s : State) : s.resetRequest.fault = .clear := rfl
@[simp] theorem State.resetRequest_fbUpdated (s : State) : s.resetRequest.fbUpdated = false := rfl
@[simp] theorem State.resetRequest_loadErr (s : State) : s.resetRequest.loadErr = s.loadErr := rfl
@[simp] theorem State.resetRequest_params (s : State) : s.resetRequest.params = s.params := rfl
@[simp] theorem State.resetRequest_keys (s : State) : s.resetRequest.keys = s.keys := rfl
@[simp] theorem State.resetRequest_randByte (s : State) : s.resetRequest.randByte = s.randByte := rfl
@[simp] theorem State.resetRequest_samples (s : State) : s.resetRequest.samples = s.samples := rfl
@[simp] theorem State.resetRequest_agenda (s : State) : s.resetRequest.agenda = s.agenda := rfl

@[simp] theorem State.keysSampled_mem (s : State) : s.keysSampled.mem = s.mem := rfl
@[simp] theorem State.keysSampled_v (s : State) : s.keysSampled.v = s.v := rfl
@[simp] theorem State.keysSampled_i (s : State) : s.keysSampled.i = s.i := rfl
@[simp] theorem State.keysSampled_pc (s : State) : s.keysSampled.pc = s.pc := rfl
@[simp] theorem State.keysSampled_sp (s : State) : s.keysSampled.sp = s.sp := rfl
@[simp] theorem State.keysSampled_stack (s : State) : s.keysSampled.stack = s.stack := rfl
@[simp] theorem State.keysSampled_dt (s : State) : s.keysSampled.dt = s.dt := rfl
@[simp] theorem State.keysSampled_st (s : State) : s.keysSampled.st = s.st := rfl
@[simp] theorem State.keysSampled_fb (s : State) : s.keysSampled.fb = s.fb := rfl
@[simp] theorem State.keysSampled_halted (s : State) : s.keysSampled.halted = s.halted := rfl
@[simp] theorem State.keysSampled_fault (s : State) : s.keysSampled.fault = s.fault := rfl
@[simp] theorem State.keysSampled_fbUpdated (s : State) : s.keysSampled.fbUpdated = s.fbUpdated := rfl
@[simp] theorem State.keysSampled_loadErr (s : State) : s.keysSampled.loadErr = s.loadErr := rfl
@[simp] theorem State.keysSampled_params (s : State) : s.keysSampled.params = s.params := rfl
@[simp] theorem State.keysSampled_keys (s : State) : s.keysSampled.keys = Config.freeKeys s.samples := rfl
@[simp] theorem State.keysSampled_randByte (s : State) : s.keysSampled.randByte = s.randByte := rfl
@[simp] theorem State.keysSampled_samples (s : State) : s.keysSampled.samples = s.samples + 1 := rfl
@[simp] theorem State.keysSampled_agenda (s : State) : s.keysSampled.agenda = s.agenda := rfl

@[simp] theorem State.randDrawn_mem (s : State) : s.randDrawn.mem = s.mem := rfl
@[simp] theorem State.randDrawn_v (s : State) : s.randDrawn.v = s.v := rfl
@[simp] theorem State.randDrawn_i (s : State) : s.randDrawn.i = s.i := rfl
@[simp] theorem State.randDrawn_pc (s : State) : s.randDrawn.pc = s.pc := rfl
@[simp] theorem State.randDrawn_sp (s : State) : s.randDrawn.sp = s.sp := rfl
@[simp] theorem State.randDrawn_stack (s : State) : s.randDrawn.stack = s.stack := rfl
@[simp] theorem State.randDrawn_dt (s : State) : s.randDrawn.dt = s.dt := rfl
@[simp] theorem State.randDrawn_st (s : State) : s.randDrawn.st = s.st := rfl
@[simp] theorem State.randDrawn_fb (s : State) : s.randDrawn.fb = s.fb := rfl
@[simp] theorem State.randDrawn_halted (s : State) : s.randDrawn.halted = s.halted := rfl
@[simp] theorem State.randDrawn_fault (s : State) : s.randDrawn.fault = s.fault := rfl
@[simp] theorem State.randDrawn_fbUpdated (s : State) : s.randDrawn.fbUpdated = s.fbUpdated := rfl
@[simp] theorem State.randDrawn_loadErr (s : State) : s.randDrawn.loadErr = s.loadErr := rfl
@[simp] theorem State.randDrawn_params (s : State) : s.randDrawn.params = s.params := rfl
@[simp] theorem State.randDrawn_keys (s : State) : s.randDrawn.keys = s.keys := rfl
@[simp] theorem State.randDrawn_randByte (s : State) : s.randDrawn.randByte = Config.freeRand s.samples := rfl
@[simp] theorem State.randDrawn_samples (s : State) : s.randDrawn.samples = s.samples + 1 := rfl
@[simp] theorem State.randDrawn_agenda (s : State) : s.randDrawn.agenda = s.agenda := rfl

/-- A register after a write to one (10_state.md R21: no register is hardwired, none aliases another). -/
@[simp] theorem State.reg_setReg (s : State) (x y : Reg) (b : Byte) :
    (s.setReg x b).reg y = if y = x then b else s.reg y := by
  unfold State.reg State.setReg
  by_cases h : y = x
  · subst h; simp
  · have h' : x.val ≠ y.val := fun e => h (Fin.ext e.symm)
    simp [h, h']

/-- The registers after a block load: those up to `x` from the bytes, the others unchanged. -/
@[simp] theorem State.reg_setRegsUpTo (s : State) (x y : Reg) (bs : List Byte) :
    (s.setRegsUpTo x bs).reg y = if y.val ≤ x.val then bs.getD y.val 0 else s.reg y := by
  simp [State.reg, State.setRegsUpTo]

/-- Result first, flag second: VF ends as the flag whatever the destination (41_alu.md R120). -/
@[simp] theorem State.reg_setRegAndFlag (s : State) (x y : Reg) (r f : Byte) :
    (s.setRegAndFlag x r f).reg y = if y = vf then f else if y = x then r else s.reg y := by
  simp [State.setRegAndFlag]

@[simp] theorem State.reg_setI (s : State) (w : Word) (y : Reg) : (s.setI w).reg y = s.reg y := rfl
@[simp] theorem State.reg_setMem (s : State) (m : Memory) (y : Reg) : (s.setMem m).reg y = s.reg y := rfl
@[simp] theorem State.reg_setFb (s : State) (fb : Framebuffer) (y : Reg) : (s.setFb fb).reg y = s.reg y := rfl
@[simp] theorem State.reg_setDt (s : State) (b : Byte) (y : Reg) : (s.setDt b).reg y = s.reg y := rfl
@[simp] theorem State.reg_setSt (s : State) (b : Byte) (y : Reg) : (s.setSt b).reg y = s.reg y := rfl
@[simp] theorem State.reg_complete (s : State) (p : Word) (d : Bool) (y : Reg) : (s.complete p d).reg y = s.reg y := rfl
@[simp] theorem State.reg_advance (s : State) (d : Bool) (y : Reg) : (s.advance d).reg y = s.reg y := rfl
@[simp] theorem State.reg_skipIf (s : State) (b : Bool) (y : Reg) : (s.skipIf b).reg y = s.reg y := rfl
@[simp] theorem State.reg_halt (s : State) (c : Cause) (w : Option Word) (a : Nat) (y : Reg) : (s.halt c w a).reg y = s.reg y := rfl
@[simp] theorem State.reg_resetRequest (s : State) (y : Reg) : s.resetRequest.reg y = 0 := by
  simp [State.reg]
@[simp] theorem State.reg_keysSampled (s : State) (y : Reg) : s.keysSampled.reg y = s.reg y := rfl
@[simp] theorem State.reg_randDrawn (s : State) (y : Reg) : s.randDrawn.reg y = s.reg y := rfl

end Sys2Proof.Machine
end

