-- ==== Sys2Proof/Laws/Memory.lean ====
section
/-! SUPPORT. The laws of memory: a read after a write, the bytes a block write stores and those it leaves alone, and
that every memory operation keeps the canonical form (20_memory.md R53, R54, R60; log 6). -/

namespace Sys2Proof.Machine

namespace Memory

theorem get_erase (m : Memory) (a b : Nat) :
    (m.erase a).get b = if b = a then unlisted a else m.get b := by
  induction m with
  | nil => by_cases h : b = a <;> simp [erase, get, h]
  | cons p m ih =>
    obtain ⟨c, v⟩ := p
    by_cases hca : c = a
    · subst hca
      by_cases hb : b = c
      · subst hb; simpa [erase] using ih
      · simp [erase, ih, get, hb, Ne.symm hb]
    · by_cases hcb : c = b
      · subst hcb; simp [erase, get, hca]
      · simp [erase, get, hca, hcb, ih]

theorem get_insert_ne (m : Memory) {a b : Nat} (x : Byte) (h : b ≠ a) : (m.insert a x).get b = m.get b := by
  induction m with
  | nil => simp [insert, get, Ne.symm h]
  | cons p m ih =>
    obtain ⟨c, v⟩ := p
    by_cases hac : a < c
    · simp [insert, get, hac, Ne.symm h]
    · simp [insert, get, hac, ih]

theorem get_insert_same (m : Memory) (a : Nat) (x : Byte) (h : ∀ p ∈ m, p.1 ≠ a) : (m.insert a x).get a = x := by
  induction m with
  | nil => simp [insert, get]
  | cons p m ih =>
    obtain ⟨c, v⟩ := p
    have hc : c ≠ a := h (c, v) (by simp)
    by_cases hac : a < c
    · simp [insert, get, hac]
    · simp [insert, get, hac, hc, ih fun p hp => h p (by simp [hp])]

theorem mem_erase {m : Memory} {a : Nat} {p : Host.Cell} : p ∈ m.erase a ↔ p ∈ m ∧ p.1 ≠ a := by
  induction m with
  | nil => simp [erase]
  | cons q m ih =>
    obtain ⟨c, v⟩ := q
    by_cases hca : c = a
    · subst hca
      simp only [erase, if_true, ih, List.mem_cons]
      constructor
      · rintro ⟨h, h'⟩; exact ⟨.inr h, h'⟩
      · rintro ⟨rfl | h, h'⟩
        · exact absurd rfl h'
        · exact ⟨h, h'⟩
    · simp only [erase, if_neg hca, List.mem_cons, ih]
      constructor
      · rintro (rfl | ⟨h, h'⟩)
        · exact ⟨.inl rfl, hca⟩
        · exact ⟨.inr h, h'⟩
      · rintro ⟨rfl | h, h'⟩
        · exact .inl rfl
        · exact .inr ⟨h, h'⟩

/-- A read after a write: the byte written at its address, the old byte everywhere else (R54, R60). -/
@[simp] theorem get_set (m : Memory) (a b : Nat) (x : Byte) :
    (m.set a x).get b = if b = a then x else m.get b := by
  unfold set
  split
  · rename_i h; rw [get_erase, h]
  · by_cases hb : b = a
    · subst hb
      rw [get_insert_same _ _ _ fun p hp => (mem_erase.1 hp).2, if_pos rfl]
    · rw [get_insert_ne _ _ hb, get_erase, if_neg hb, if_neg hb]

/-- What a block write stores, and that it leaves every other address alone. -/
theorem get_setBytes (m : Memory) (a b : Nat) (xs : List Byte) :
    (m.setBytes a xs).get b = if a ≤ b ∧ b < a + xs.length then xs.getD (b - a) 0 else m.get b := by
  induction xs generalizing m a with
  | nil => simp [setBytes]
  | cons x xs ih =>
    rw [setBytes, ih, get_set]
    by_cases hb : b = a
    · subst hb; simp
    · by_cases h : a + 1 ≤ b ∧ b < a + 1 + xs.length
      · have h' : a ≤ b ∧ b < a + (x :: xs).length := by simp; omega
        rw [if_pos h, if_pos h']
        have : b - a = (b - (a + 1)) + 1 := by omega
        rw [this, List.getD_cons_succ]
      · have h' : ¬(a ≤ b ∧ b < a + (x :: xs).length) := by simp at *; omega
        rw [if_neg h, if_neg h', if_neg hb]

@[simp] theorem length_getBytes (m : Memory) (a n : Nat) : (m.getBytes a n).length = n := by simp [getBytes]

theorem getD_getBytes (m : Memory) (a n k : Nat) (h : k < n) : (m.getBytes a n).getD k 0 = m.get (a + k) := by
  simp [getBytes, h]

theorem mem_insert {m : Memory} {a : Nat} {x : Byte} {p : Host.Cell} :
    p ∈ m.insert a x ↔ p = (a, x) ∨ p ∈ m := by
  induction m with
  | nil => simp [insert]
  | cons q m ih =>
    obtain ⟨c, v⟩ := q
    by_cases hac : a < c
    · simp [insert, hac]
    · simp only [insert, if_neg hac, List.mem_cons, ih]; tauto

theorem erase_sublist (m : Memory) (a : Nat) : (m.erase a).Sublist m := by
  induction m with
  | nil => simp [erase]
  | cons q m ih =>
    obtain ⟨c, v⟩ := q
    by_cases hca : c = a
    · simpa [erase, hca] using ih.cons (c, v)
    · simpa [erase, hca] using ih.cons_cons (c, v)

theorem pairwise_insert {m : Memory} {a : Nat} {x : Byte} (hm : m.Pairwise fun p q => p.1 < q.1)
    (ha : ∀ p ∈ m, p.1 ≠ a) : (m.insert a x).Pairwise fun p q => p.1 < q.1 := by
  induction m with
  | nil => simp [insert]
  | cons q m ih =>
    obtain ⟨c, v⟩ := q
    rw [List.pairwise_cons] at hm
    by_cases hac : a < c
    · simp only [insert, if_pos hac, List.pairwise_cons, List.mem_cons]
      refine ⟨?_, hm.1, hm.2⟩
      rintro p (rfl | hp)
      · exact hac
      · exact hac.trans (hm.1 p hp)
    · have hca : c < a := by have := ha (c, v) (by simp); simp at this; omega
      simp only [insert, if_neg hac, List.pairwise_cons]
      refine ⟨fun p hp => ?_, ih hm.2 fun p hp => ha p (by simp [hp])⟩
      rcases mem_insert.1 hp with rfl | hp
      · exact hca
      · exact hm.1 p hp

/-- A write inside the memory keeps the canonical form. -/
theorem wf_set {m : Memory} (hm : m.WF) {a : Nat} (ha : a < Config.memSize) (x : Byte) : (m.set a x).WF := by
  have he : (m.erase a).Pairwise fun p q => p.1 < q.1 := hm.1.sublist (erase_sublist m a)
  unfold set
  split
  · exact ⟨he, fun p hp => hm.2 p (mem_erase.1 hp).1⟩
  · rename_i hx
    refine ⟨pairwise_insert he fun p hp => (mem_erase.1 hp).2, fun p hp => ?_⟩
    rcases mem_insert.1 hp with rfl | hp
    · exact ⟨ha, hx⟩
    · exact hm.2 p (mem_erase.1 hp).1

/-- A block write inside the memory keeps the canonical form. -/
theorem wf_setBytes {m : Memory} (hm : m.WF) {a : Nat} {xs : List Byte} (ha : a + xs.length ≤ Config.memSize) :
    (m.setBytes a xs).WF := by
  induction xs generalizing m a with
  | nil => exact hm
  | cons x xs ih =>
    simp only [List.length_cons] at ha
    exact ih (wf_set hm (by omega) x) (by omega)

/-- Memory at creation, and after a reset request, is in canonical form. -/
theorem wf_reset : State.reset.mem.WF := by simp [State.reset, WF]

end Memory

/-- Canonical memories that read the same everywhere are the same data: the form is canonical. -/
theorem Memory.ext_of_wf {m n : Memory} (hm : m.WF) (hn : n.WF) (h : ∀ a, m.get a = n.get a) : m = n := by
  have get_cons : ∀ {p : Host.Cell} {k : Memory}, Memory.WF (p :: k) →
      (∀ a, a < p.1 → Memory.get (p :: k) a = Memory.unlisted a) ∧ Memory.get (p :: k) p.1 = p.2 ∧
      (∀ a, a ≤ p.1 → Memory.get k a = Memory.unlisted a) := by
    have low : ∀ (k : Memory) (a : Nat), (∀ q ∈ k, a < q.1) → Memory.get k a = Memory.unlisted a := by
      intro k a hk
      induction k with
      | nil => rfl
      | cons q k ih =>
        have := hk q (by simp)
        simp [Memory.get, Nat.ne_of_gt this, ih fun r hr => hk r (by simp [hr])]
    intro p k hk
    have h1 := (List.pairwise_cons.1 hk.1).1
    refine ⟨fun a ha => low _ _ fun q hq => ?_, by simp [Memory.get], fun a ha => low _ _ fun q hq => ?_⟩
    · rcases List.mem_cons.1 hq with rfl | hq
      · exact ha
      · exact ha.trans (h1 q hq)
    · exact lt_of_le_of_lt ha (h1 q hq)
  have tail : ∀ {p : Host.Cell} {k : Memory}, Memory.WF (p :: k) → Memory.WF k := fun hk =>
    ⟨(List.pairwise_cons.1 hk.1).2, fun q hq => hk.2 q (by simp [hq])⟩
  induction m generalizing n with
  | nil =>
    cases n with
    | nil => rfl
    | cons q n =>
      have := h q.1
      rw [(get_cons hn).2.1] at this
      exact absurd this.symm (hn.2 q (by simp)).2
  | cons p m ih =>
    cases n with
    | nil =>
      have := h p.1
      rw [(get_cons hm).2.1] at this
      exact absurd this (hm.2 p (by simp)).2
    | cons q n =>
      have hpq : p.1 = q.1 := by
        rcases Nat.lt_trichotomy p.1 q.1 with hlt | heq | hgt
        · have := h p.1
          rw [(get_cons hm).2.1, (get_cons hn).1 _ hlt] at this
          exact absurd this (hm.2 p (by simp)).2
        · exact heq
        · have := h q.1
          rw [(get_cons hn).2.1, (get_cons hm).1 _ hgt] at this
          exact absurd this.symm (hn.2 q (by simp)).2
      have hv : p.2 = q.2 := by
        have := h p.1
        rwa [(get_cons hm).2.1, hpq, (get_cons hn).2.1] at this
      have hpq' : p = q := Prod.ext hpq hv
      subst hpq'
      have : m = n := by
        refine ih (tail hm) (tail hn) fun a => ?_
        by_cases ha : a = p.1
        · rw [(get_cons hm).2.2 a (le_of_eq ha), (get_cons hn).2.2 a (le_of_eq ha)]
        · have := h a
          obtain ⟨c, v⟩ := p
          simpa [Memory.get, Ne.symm ha] using this
      rw [this]

end Sys2Proof.Machine
end

