-- ==== Sys2Proof/Laws/Ops.lean ====
section
/-! SUPPORT. What each shared operation can do, said once: the stack, the range check, the fetch, the framebuffer port,
the key query, and what executing an instruction can answer. -/

namespace Sys2Proof.Machine

/-! ### The call stack (40_control_flow.md R100, R101) -/

theorem State.push_full {s : State} (h : s.sp.val = 16) (v : Word) : s.push v = none := by
  simp [State.push, h]

/-- A push below the full stack: one entry written, SP one higher, nothing else (R100). -/
theorem State.push_spec {s : State} (h : s.sp.val < 16) (v : Word) :
    ∃ t, s.push v = some t ∧ t = { s with stack := s.stack.set s.sp.val v h, sp := t.sp } ∧
      t.sp.val = s.sp.val + 1 := by
  refine ⟨_, dif_pos h, rfl, rfl⟩

theorem State.pop_empty {s : State} (h : s.sp.val = 0) : s.pop = none := by simp [State.pop, h]

/-- A pop of a nonempty stack: the top entry, SP one lower, nothing else; the entry is not cleared (R101). -/
theorem State.pop_spec {s : State} (h : s.sp.val ≠ 0) :
    ∃ w t, s.pop = some (w, t) ∧ s.stack[s.sp.val - 1]? = some w ∧ t = { s with sp := t.sp } ∧
      t.sp.val = s.sp.val - 1 := by
  have := s.sp.isLt
  refine ⟨_, _, dif_neg h, ?_, rfl, rfl⟩
  exact Vector.getElem?_eq_getElem (by omega)

/-! ### Memory through I, and the fetch -/

@[simp] theorem inRange_iff (a : Nat) : inRange a = true ↔ a < 4096 := by simp [inRange]

/-- `CheckRange(m)` for `m` ≥ 1 passes exactly when every byte of the access is in range (42_index_memory.md R150), so
the checks of `MemRead` and `MemWrite` (20_memory.md R53, R54) never fire after it. -/
theorem State.rangeOk_iff {s : State} {m : Nat} (hm : 1 ≤ m) :
    s.rangeOk m = true ↔ ∀ k < m, inRange (s.ea k) = true := by
  simp only [State.rangeOk, State.ea, inRange_iff]
  constructor
  · intro h k hk; omega
  · intro h; exact h (m - 1) (by omega)

theorem State.rangeOk_last {s : State} {m : Nat} : s.rangeOk m = true ↔ s.i.toNat + (m - 1) < 4096 := by
  simp [State.rangeOk, State.ea]

/-- A fetch with both bytes in range (20_memory.md R55). -/
theorem State.fetch_ok {s : State} (h : s.pc.toNat + 1 < 4096) :
    s.fetch = .ok (wordOfBytes (s.mem.get s.pc.toNat) (s.mem.get (s.pc.toNat + 1))) := by
  simp [State.fetch, inRange, h, Nat.lt_of_succ_lt h]

/-- A fetch with a byte out of range reports the first such address (20_memory.md R55). -/
theorem State.fetch_error {s : State} (h : 4096 ≤ s.pc.toNat + 1) :
    s.fetch = .error (if 4096 ≤ s.pc.toNat then s.pc.toNat else s.pc.toNat + 1) := by
  by_cases h' : 4096 ≤ s.pc.toNat
  · simp [State.fetch, inRange, Nat.not_lt.2 h', h']
  · simp [State.fetch, inRange, Nat.lt_of_not_le h', h', Nat.not_lt.2 h]

/-- The word of two bytes as a number: the first byte in bits 15:8. -/
theorem wordOfBytes_toNat (hi lo : Byte) : (wordOfBytes hi lo).toNat = hi.toNat * 256 + lo.toNat := by
  have := lo.isLt
  rw [wordOfBytes, BitVec.toNat_append, ← Nat.shiftLeft_add_eq_or_of_lt lo.isLt, Nat.shiftLeft_eq]

/-- The bytes of a word make that word again. -/
theorem wordOfBytes_bytesOfWord (w : Word) : wordOfBytes (w.extractLsb' 8 8) (w.extractLsb' 0 8) = w := by
  apply BitVec.eq_of_toNat_eq
  have := w.isLt
  simp only [wordOfBytes_toNat, BitVec.extractLsb'_toNat, Nat.shiftRight_eq_div_pow]
  omega

/-! ### The framebuffer port (43_display.md R170) -/

@[simp] theorem Framebuffer.get_clear (row : Fin Config.fbRows) (col : Fin Config.fbCols) :
    Framebuffer.clear.get row col = false := by
  simp [Framebuffer.clear, Framebuffer.get]

@[simp] theorem Framebuffer.xorPixel_old (fb : Framebuffer) (row : Fin Config.fbRows) (col : Fin Config.fbCols) :
    (fb.xorPixel row col).1 = fb.get row col := rfl

/-- XOR-pixel inverts its cell and no other (R170). -/
@[simp] theorem Framebuffer.get_xorPixel (fb : Framebuffer) (row r : Fin Config.fbRows) (col c : Fin Config.fbCols) :
    (fb.xorPixel row col).2.get r c = if r = row ∧ c = col then !fb.get row col else fb.get r c := by
  unfold Framebuffer.xorPixel Framebuffer.get
  by_cases hr : r = row
  · subst hr
    by_cases hc : c = col
    · subst hc; simp
    · have : col.val ≠ c.val := fun e => hc (Fin.ext e.symm)
      simp [hc, this]
  · have : row.val ≠ r.val := fun e => hr (Fin.ext e.symm)
    simp [hr, this]

/-- Framebuffers that read the same everywhere are the same data. -/
theorem Framebuffer.ext_get {a b : Framebuffer} (h : ∀ r c, a.get r c = b.get r c) : a = b := by
  apply Vector.ext
  intro r hr
  apply Vector.ext
  intro c hc
  simpa [Framebuffer.get] using h ⟨r, hr⟩ ⟨c, hc⟩

/-! ### The key query -/

/-- A key number below 16 is queried whatever the parameter (44_keys_timers.md R180). -/
theorem State.keyOf_low {s : State} {v : Byte} (h : v.toNat < 16) : s.keyOf v = some (s.keys.getLsbD v.toNat) := by
  simp [State.keyOf, State.key, h]

theorem State.keyOf_mask {s : State} {v : Byte} (hp : s.params.keyIndexOverflow = .mask) :
    s.keyOf v = some (s.keys.getLsbD (v.toNat % 16)) := by
  have h16 : (v &&& 0xF#8).toNat = v.toNat % 16 := by
    rw [BitVec.toNat_and]; exact Nat.and_two_pow_sub_one_eq_mod v.toNat 4
  by_cases h : v.toNat < 16
  · rw [State.keyOf_low h, Nat.mod_eq_of_lt h]
  · simp [State.keyOf, State.key, h, hp, h16]

theorem State.keyOf_fatal {s : State} {v : Byte} (hp : s.params.keyIndexOverflow = .fatal) (h : ¬v.toNat < 16) :
    s.keyOf v = none := by
  simp [State.keyOf, h, hp]

/-! ### What executing an instruction can answer -/

theorem raiseFatal_next (c : Cause) (i : Instr) (a : Nat) (s : State) :
    raiseFatal c i a s = .next (s.halt c (some (encode i)) a) := rfl

/-- Why executing `i` raises `c` with address `a`: each cause with its instructions and its condition
(60_exceptions.md R201, R202). Everything else completes. -/
theorem exec_cases (i : Instr) (s : State) :
    (∃ t, exec i s = .next t ∧ t.halted = s.halted ∧ t.fault = s.fault) ∨
      ∃ c a, exec i s = .next (s.halt c (some (encode i)) a) ∧
        (c = .stackUnderflow ∧ a = 0 ∧ s.sp.val = 0 ∧ i = .ret ∨
          c = .stackOverflow ∧ a = 0 ∧ s.sp.val = 16 ∧ (∃ nnn, i = .call nnn) ∨
          c = .dataOutOfRange ∧ a = max s.i.toNat 4096 ∧ 1 ≤ dataBytes i ∧ 4096 ≤ s.i.toNat + dataBytes i - 1 ∨
          c = .keyOutOfRange ∧ a = 0 ∧ s.params.keyIndexOverflow = .fatal ∧
            ∃ x, (i = .skp x ∨ i = .sknp x) ∧ 15 < (s.reg x).toNat) := by
  cases i with
  | ret =>
    by_cases h : s.sp.val = 0
    · exact .inr ⟨_, _, by simp only [exec, execRet, State.pop_empty h]; rfl, .inl ⟨rfl, rfl, h, rfl⟩⟩
    · obtain ⟨w, t, hp, -, ht, -⟩ := State.pop_spec h
      exact .inl ⟨_, by simp only [exec, execRet, hp]; rfl, by rw [ht]; simp, by rw [ht]; simp⟩
  | call nnn =>
    by_cases h : s.sp.val < 16
    · obtain ⟨t, hp, ht, -⟩ := State.push_spec h (s.pc + 2)
      exact .inl ⟨_, by simp only [exec, execCall, hp]; rfl, by rw [ht]; simp, by rw [ht]; simp⟩
    · have h : s.sp.val = 16 := by have : s.sp.val < 17 := s.sp.isLt; omega
      exact .inr ⟨_, _, by simp only [exec, execCall, State.push_full h]; rfl, .inr (.inl ⟨rfl, rfl, h, nnn, rfl⟩)⟩
  | ldB x =>
    by_cases h : s.rangeOk 3 = true
    · exact .inl ⟨(s.setMem (s.mem.setBytes (s.ea 0) (bcdDigits (s.reg x)))).advance,
        by simp only [exec, execLdB, h, if_true], by simp, by simp⟩
    · refine .inr ⟨.dataOutOfRange, s.firstOutOfRange, by simp only [exec, execLdB, if_neg h, raiseFatal],
        .inr (.inr (.inl ⟨rfl, rfl, by simp [dataBytes], ?_⟩))⟩
      rw [State.rangeOk_last] at h
      simp only [dataBytes]; omega
  | storeRegs x =>
    by_cases h : s.rangeOk (x.val + 1) = true
    · exact .inl ⟨(s.setMem (s.mem.setBytes (s.ea 0) (s.regsUpTo x))).advance,
        by simp only [exec, execStoreRegs, h, if_true], by simp, by simp⟩
    · refine .inr ⟨.dataOutOfRange, s.firstOutOfRange, by simp only [exec, execStoreRegs, if_neg h, raiseFatal],
        .inr (.inr (.inl ⟨rfl, rfl, by simp [dataBytes], ?_⟩))⟩
      rw [State.rangeOk_last] at h
      simp only [dataBytes]; omega
  | loadRegs x =>
    by_cases h : s.rangeOk (x.val + 1) = true
    · exact .inl ⟨(s.setRegsUpTo x (s.mem.getBytes (s.ea 0) (x.val + 1))).advance,
        by simp only [exec, execLoadRegs, h, if_true], by simp, by simp⟩
    · refine .inr ⟨.dataOutOfRange, s.firstOutOfRange, by simp only [exec, execLoadRegs, if_neg h, raiseFatal],
        .inr (.inr (.inl ⟨rfl, rfl, by simp [dataBytes], ?_⟩))⟩
      rw [State.rangeOk_last] at h
      simp only [dataBytes]; omega
  | drw x y n =>
    by_cases h : n.val = 0 ∨ s.rangeOk n.val = true
    · exact .inl ⟨((s.setFb (s.drawn x y (s.mem.getBytes (s.ea 0) n.val)).1).setReg vf
          (flagByte (s.drawn x y (s.mem.getBytes (s.ea 0) n.val)).2)).advance true,
        by simp only [exec, execDrw, if_pos h], by simp, by simp⟩
    · refine .inr ⟨.dataOutOfRange, s.firstOutOfRange, by simp only [exec, execDrw, if_neg h, raiseFatal],
        .inr (.inr (.inl ⟨rfl, rfl, ?_, ?_⟩))⟩ <;>
      · rw [State.rangeOk_last] at h
        simp only [dataBytes]; omega
  | skp x =>
    by_cases h : (s.reg x).toNat < 16
    · exact .inl ⟨_, by simp only [exec, execSkp, State.keyOf_low h]; rfl, by simp, by simp⟩
    · cases hp : s.params.keyIndexOverflow with
      | mask => exact .inl ⟨_, by simp only [exec, execSkp, State.keyOf_mask hp]; rfl, by simp, by simp⟩
      | fatal =>
        exact .inr ⟨_, _, by simp only [exec, execSkp, State.keyOf_fatal hp h]; rfl,
          .inr (.inr (.inr ⟨rfl, rfl, rfl, x, .inl rfl, by omega⟩))⟩
  | sknp x =>
    by_cases h : (s.reg x).toNat < 16
    · exact .inl ⟨_, by simp only [exec, execSknp, State.keyOf_low h]; rfl, by simp, by simp⟩
    · cases hp : s.params.keyIndexOverflow with
      | mask => exact .inl ⟨_, by simp only [exec, execSknp, State.keyOf_mask hp]; rfl, by simp, by simp⟩
      | fatal =>
        exact .inr ⟨_, _, by simp only [exec, execSknp, State.keyOf_fatal hp h]; rfl,
          .inr (.inr (.inr ⟨rfl, rfl, rfl, x, .inr rfl, by omega⟩))⟩
  | ldVxK x =>
    refine .inl ⟨_, rfl, ?_, ?_⟩ <;> cases s.lowestKey <;> simp
  | _ => exact .inl ⟨_, rfl, by simp, by simp⟩

/-- Executing an instruction keeps memory's canonical form. -/
theorem exec_keeps_wf {i : Instr} {s t : State} (hs : s.mem.WF) (h : exec i s = .next t) : t.mem.WF := by
  cases i with
  | ldB x =>
    simp only [exec, execLdB] at h
    split at h
    · rename_i hr
      cases h
      refine Memory.wf_setBytes hs ?_
      have := State.rangeOk_last.1 hr
      show s.i.toNat + 0 + 3 ≤ 4096
      omega
    · cases h; exact hs
  | storeRegs x =>
    simp only [exec, execStoreRegs] at h
    split at h
    · rename_i hr
      cases h
      refine Memory.wf_setBytes hs ?_
      have := State.rangeOk_last.1 hr
      have hl : (s.regsUpTo x).length = x.val + 1 := by have := x.isLt; simp [State.regsUpTo]
      rw [hl]
      show s.i.toNat + 0 + (x.val + 1) ≤ 4096
      omega
    · cases h; exact hs
  | ret =>
    simp only [exec, execRet] at h
    split at h
    · cases h; exact hs
    · rename_i w u hp
      cases h
      by_cases h0 : s.sp.val = 0
      · rw [State.pop_empty h0] at hp; cases hp
      · obtain ⟨w', t', hp', -, ht, -⟩ := State.pop_spec h0
        rw [hp'] at hp; cases hp; rw [ht]; exact hs
  | call nnn =>
    simp only [exec, execCall] at h
    split at h
    · cases h; exact hs
    · rename_i u hp
      cases h
      by_cases h0 : s.sp.val < 16
      · obtain ⟨t', hp', ht, -⟩ := State.push_spec h0 (s.pc + 2)
        rw [hp'] at hp; cases hp; rw [ht]; exact hs
      · simp [State.push, h0] at hp
  | loadRegs x => simp only [exec, execLoadRegs] at h; split at h <;> (cases h; exact hs)
  | drw x y n => simp only [exec, execDrw] at h; split at h <;> (cases h; exact hs)
  | skp x => simp only [exec, execSkp] at h; split at h <;> (cases h; exact hs)
  | sknp x => simp only [exec, execSknp] at h; split at h <;> (cases h; exact hs)
  | ldVxK x =>
    cases h
    cases s.lowestKey <;> exact hs
  | _ => cases h; exact hs

end Sys2Proof.Machine
end

