-- ==== Sys2Proof/Laws/Draw.lean ====
section
/-! SUPPORT. What a draw does to the framebuffer in closed form: which cells a sprite covers, that no cell is covered
twice, and the framebuffer and collision after XOR-ing each (43_display.md R172). -/

namespace Sys2Proof.Machine

theorem mem_rowCells {row cx : Nat} {bits : Byte} {r : Fin Config.fbRows} {c : Fin Config.fbCols} :
    (r, c) ∈ rowCells row cx bits ↔
      r.val = row % 32 ∧ ∃ b < 8, c.val = (cx + b) % 64 ∧ bits.getLsbD (7 - b) = true := by
  simp only [rowCells, List.mem_filterMap, List.mem_range]
  constructor
  · rintro ⟨b, hb, h⟩
    split at h
    · rename_i hbit
      cases h
      exact ⟨rfl, b, hb, rfl, hbit⟩
    · cases h
  · rintro ⟨hr, b, hb, hc, hbit⟩
    refine ⟨b, hb, ?_⟩
    rw [if_pos hbit]
    exact congrArg some (Prod.ext (Fin.ext hr.symm) (Fin.ext hc.symm))

/-- The cells a sprite covers. -/
theorem mem_spriteCells {cx row : Nat} {rows : List Byte} {r : Fin Config.fbRows} {c : Fin Config.fbCols} :
    (r, c) ∈ spriteCells cx row rows ↔
      ∃ k < rows.length, r.val = (row + k) % 32 ∧
        ∃ b < 8, c.val = (cx + b) % 64 ∧ (rows.getD k 0).getLsbD (7 - b) = true := by
  induction rows generalizing row with
  | nil => simp [spriteCells]
  | cons bits rest ih =>
    rw [spriteCells, List.mem_append, mem_rowCells, ih]
    constructor
    · rintro (⟨hr, h⟩ | ⟨k, hk, hr, h⟩)
      · exact ⟨0, by simp, by simpa using hr, by simpa using h⟩
      · exact ⟨k + 1, by simpa using hk, by rw [hr]; congr 1; omega, by simpa using h⟩
    · rintro ⟨k, hk, hr, h⟩
      cases k with
      | zero => exact .inl ⟨by simpa using hr, by simpa using h⟩
      | succ k => exact .inr ⟨k, by simpa using hk, by rw [hr]; congr 1; omega, by simpa using h⟩

/-- A row's cells are distinct: 8 columns < 64 (R172). -/
theorem nodup_rowCells (row cx : Nat) (bits : Byte) : (rowCells row cx bits).Nodup := by
  have h : ∀ l : List Nat, l.Nodup → (∀ b ∈ l, b < 8) →
      (l.filterMap fun b =>
        if bits.getLsbD (7 - b) then
          some ((Fin.ofNat Config.fbRows row, Fin.ofNat Config.fbCols (cx + b)) :
            Fin Config.fbRows × Fin Config.fbCols)
        else none).Nodup := by
    intro l hl hb
    induction l with
    | nil => simp
    | cons b l ih =>
      have ih := ih (List.nodup_cons.1 hl).2 fun b' h' => hb b' (by simp [h'])
      cases hbit : bits.getLsbD (7 - b) with
      | false => simpa [hbit] using ih
      | true =>
        simp only [List.filterMap_cons, hbit, if_true, List.nodup_cons]
        refine ⟨fun hmem => ?_, ih⟩
        obtain ⟨b', hb', h'⟩ := List.mem_filterMap.1 hmem
        split at h'
        · have hc := congrArg Fin.val (Prod.ext_iff.1 (Option.some.inj h')).2
          have h1 := hb b (by simp)
          have h2 := hb b' (by simp [hb'])
          have : (cx + b') % 64 = (cx + b) % 64 := hc
          have : b' = b := by omega
          exact (List.nodup_cons.1 hl).1 (this ▸ hb')
        · cases h'
  exact h _ List.nodup_range fun b hb => List.mem_range.1 hb

/-- "no cell is touched twice by one sprite, since 8 columns < 64 and 15 rows < 32" (R172). -/
theorem nodup_spriteCells (cx row : Nat) (rows : List Byte) (h : rows.length ≤ 32) :
    (spriteCells cx row rows).Nodup := by
  induction rows generalizing row with
  | nil => simp [spriteCells]
  | cons bits rest ih =>
    rw [List.length_cons] at h
    rw [spriteCells, List.nodup_append]
    refine ⟨nodup_rowCells .., ih (row + 1) (by omega), ?_⟩
    rintro ⟨r, c⟩ h1 ⟨r', c'⟩ h2 heq
    cases heq
    obtain ⟨hr, -⟩ := mem_rowCells.1 h1
    obtain ⟨k, hk, hr', -⟩ := mem_spriteCells.1 h2
    omega

/-- The framebuffer after XOR-ing distinct cells: exactly those are inverted. -/
theorem get_drawCells {fb : Framebuffer} {hit : Bool} {cells : List (Fin Config.fbRows × Fin Config.fbCols)}
    (h : cells.Nodup) (r : Fin Config.fbRows) (c : Fin Config.fbCols) :
    (drawCells fb hit cells).1.get r c = (fb.get r c ^^ decide ((r, c) ∈ cells)) := by
  induction cells generalizing fb hit with
  | nil => simp [drawCells]
  | cons p cells ih =>
    rw [List.nodup_cons] at h
    rw [drawCells, ih h.2, Framebuffer.get_xorPixel]
    by_cases hp : (r, c) = p
    · subst hp; simp [h.1]
    · have : ¬(r = p.1 ∧ c = p.2) := fun e => hp (Prod.ext e.1 e.2)
      simp [this, hp]

/-- The collision after XOR-ing distinct cells: whether any of them was set. -/
theorem hit_drawCells {fb : Framebuffer} {hit : Bool} {cells : List (Fin Config.fbRows × Fin Config.fbCols)}
    (h : cells.Nodup) : (drawCells fb hit cells).2 = (hit || cells.any fun p => fb.get p.1 p.2) := by
  induction cells generalizing fb hit with
  | nil => simp [drawCells]
  | cons p cells ih =>
    rw [List.nodup_cons] at h
    rw [drawCells, ih h.2, List.any_cons, Framebuffer.xorPixel_old, Bool.or_assoc]
    congr 2
    apply Bool.eq_iff_iff.2
    rw [List.any_eq_true, List.any_eq_true]
    have hget : ∀ q ∈ cells, (fb.xorPixel p.1 p.2).2.get q.1 q.2 = fb.get q.1 q.2 := by
      intro q hq
      rw [Framebuffer.get_xorPixel, if_neg]
      rintro ⟨h1, h2⟩
      exact h.1 (by rwa [← Prod.ext h1 h2])
    constructor <;> rintro ⟨q, hq, hb⟩
    · exact ⟨q, hq, by rwa [hget q hq] at hb⟩
    · exact ⟨q, hq, by rwa [hget q hq]⟩

end Sys2Proof.Machine
end

