-- ==== Sys2Proof/Laws/Operands.lean ====
section
/-! SUPPORT. What each operand form gives: the registers of a block transfer, the BCD digits, the lowest
pressed key, the glyph address, the flags. -/

namespace Sys2Proof.Machine

@[simp] theorem State.length_regsUpTo (s : State) (x : Reg) : (s.regsUpTo x).length = x.val + 1 := by
  have := x.isLt
  simp [State.regsUpTo]

theorem State.getD_regsUpTo (s : State) {x : Reg} (k : Reg) (h : k.val ≤ x.val) :
    (s.regsUpTo x).getD k.val 0 = s.reg k := by
  have := k.isLt
  simp [State.regsUpTo, State.reg, Nat.lt_succ_of_le h]

@[simp] theorem length_bcdDigits (v : Byte) : (bcdDigits v).length = 3 := rfl

/-- Every digit is 0 to 9 and they make the value (42_index_memory.md R154). -/
theorem bcdDigits_value (v : Byte) :
    ((bcdDigits v).getD 0 0).toNat * 100 + ((bcdDigits v).getD 1 0).toNat * 10 + ((bcdDigits v).getD 2 0).toNat =
      v.toNat ∧ ∀ d ∈ bcdDigits v, d.toNat < 10 := by
  have := v.isLt
  simp only [bcdDigits, List.getD_cons_zero, List.getD_cons_succ, BitVec.toNat_ofNat, List.mem_cons,
    List.not_mem_nil, or_false, forall_eq_or_imp, forall_eq]
  omega

/-- The key LD Vx, K stores is pressed and no lower one is (44_keys_timers.md R186). -/
theorem State.lowestKey_eq_some {s : State} {k : Nat} :
    s.lowestKey = some k ↔ k < 16 ∧ s.keys.getLsbD k = true ∧ ∀ j < k, s.keys.getLsbD j = false := by
  simp [State.lowestKey, State.key]
  tauto

theorem State.lowestKey_eq_none {s : State} : s.lowestKey = none ↔ s.keys = 0 := by
  constructor
  · intro h
    apply BitVec.eq_of_getLsbD_eq
    intro k hk
    simpa [State.key] using List.find?_eq_none.1 h k (List.mem_range.2 hk)
  · intro h
    simp [State.lowestKey, State.key, h]

theorem glyphAddr_toNat (v : Byte) : (glyphAddr v).toNat = v.toNat * 5 := by
  have := v.isLt
  simp only [glyphAddr, BitVec.toNat_mul, BitVec.toNat_setWidth, BitVec.toNat_ofNat, Config.glyphBytes]
  omega

theorem flagByte_toNat (b : Bool) : (flagByte b).toNat = b.toNat := by cases b <;> rfl

end Sys2Proof.Machine
end

