-- ==== Sys2Proof/Laws/PerInstr.lean ====
section
/-! SUPPORT. The family OwnRow of LAWS.json: every instruction's word is admitted by that instruction's own row of the
opcode map, whatever its operands (30_encoding.md R76). -/

namespace Sys2Proof.Laws.OwnRow

/-- The instruction's row is one of the 34 rows and admits the instruction's word. -/
def Statement (i : Instr) : Prop := i.row ∈ opcodeMap ∧ i.row.admits (encode i) = true

theorem admits_A {op : Nat} (h : op < 16) (nnn : BitVec 12) {p : Word} (hp : p.toNat = op * 4096) :
    (⟨0xF000#16, p⟩ : OpcodeRow).admits (packA op nnn) = true := by
  have := nnn.isLt
  rw [OpcodeRow.admits_iff, and_F000_toNat, packA_toNat h, hp]; omega

theorem admits_XNN {op : Nat} (h : op < 16) (x : Reg) (nn : Byte) {p : Word} (hp : p.toNat = op * 4096) :
    (⟨0xF000#16, p⟩ : OpcodeRow).admits (packXNN op x nn) = true := by
  have := nn.isLt
  have := x.isLt
  rw [OpcodeRow.admits_iff, and_F000_toNat, packXNN_toNat h, hp]; omega

theorem admits_XYN {op : Nat} (h : op < 16) (x y : Reg) (n : Fin 16) {p : Word} (hp : p.toNat = op * 4096) :
    (⟨0xF000#16, p⟩ : OpcodeRow).admits (packXYN op x y n) = true := by
  have := n.isLt
  have := x.isLt
  have := y.isLt
  rw [OpcodeRow.admits_iff, and_F000_toNat, packXYN_toNat h, hp]; omega

theorem admits_XY {op : Nat} (h : op < 16) (x y : Reg) (n : Fin 16) {p : Word} (hp : p.toNat = op * 4096 + n.val) :
    (⟨0xF00F#16, p⟩ : OpcodeRow).admits (packXYN op x y n) = true := by
  have := n.isLt
  have := x.isLt
  have := y.isLt
  rw [OpcodeRow.admits_iff, and_F00F_toNat, packXYN_toNat h, hp]; omega

theorem admits_X {op : Nat} (h : op < 16) (x : Reg) (nn : Byte) {p : Word} (hp : p.toNat = op * 4096 + nn.toNat) :
    (⟨0xF0FF#16, p⟩ : OpcodeRow).admits (packXNN op x nn) = true := by
  have := nn.isLt
  have := x.isLt
  rw [OpcodeRow.admits_iff, and_F0FF_toNat, packXNN_toNat h, hp]; omega

theorem cls : Statement (.cls) :=
  ⟨by simp [Instr.row, opcodeMap], by decide⟩

theorem ret : Statement (.ret) :=
  ⟨by simp [Instr.row, opcodeMap], by decide⟩

theorem jp (nnn : BitVec 12) : Statement (.jp nnn) :=
  ⟨by simp [Instr.row, opcodeMap], admits_A (by decide) nnn rfl⟩

theorem call (nnn : BitVec 12) : Statement (.call nnn) :=
  ⟨by simp [Instr.row, opcodeMap], admits_A (by decide) nnn rfl⟩

theorem seImm (x : Reg) (nn : Byte) : Statement (.seImm x nn) :=
  ⟨by simp [Instr.row, opcodeMap], admits_XNN (by decide) x nn rfl⟩

theorem sneImm (x : Reg) (nn : Byte) : Statement (.sneImm x nn) :=
  ⟨by simp [Instr.row, opcodeMap], admits_XNN (by decide) x nn rfl⟩

theorem seReg (x y : Reg) : Statement (.seReg x y) :=
  ⟨by simp [Instr.row, opcodeMap], admits_XY (by decide) x y _ rfl⟩

theorem sneReg (x y : Reg) : Statement (.sneReg x y) :=
  ⟨by simp [Instr.row, opcodeMap], admits_XY (by decide) x y _ rfl⟩

theorem ldImm (x : Reg) (nn : Byte) : Statement (.ldImm x nn) :=
  ⟨by simp [Instr.row, opcodeMap], admits_XNN (by decide) x nn rfl⟩

theorem addImm (x : Reg) (nn : Byte) : Statement (.addImm x nn) :=
  ⟨by simp [Instr.row, opcodeMap], admits_XNN (by decide) x nn rfl⟩

theorem ldReg (x y : Reg) : Statement (.ldReg x y) :=
  ⟨by simp [Instr.row, opcodeMap], admits_XY (by decide) x y _ rfl⟩

theorem orReg (x y : Reg) : Statement (.orReg x y) :=
  ⟨by simp [Instr.row, opcodeMap], admits_XY (by decide) x y _ rfl⟩

theorem andReg (x y : Reg) : Statement (.andReg x y) :=
  ⟨by simp [Instr.row, opcodeMap], admits_XY (by decide) x y _ rfl⟩

theorem xorReg (x y : Reg) : Statement (.xorReg x y) :=
  ⟨by simp [Instr.row, opcodeMap], admits_XY (by decide) x y _ rfl⟩

theorem addReg (x y : Reg) : Statement (.addReg x y) :=
  ⟨by simp [Instr.row, opcodeMap], admits_XY (by decide) x y _ rfl⟩

theorem sub (x y : Reg) : Statement (.sub x y) :=
  ⟨by simp [Instr.row, opcodeMap], admits_XY (by decide) x y _ rfl⟩

theorem shr (x y : Reg) : Statement (.shr x y) :=
  ⟨by simp [Instr.row, opcodeMap], admits_XY (by decide) x y _ rfl⟩

theorem subn (x y : Reg) : Statement (.subn x y) :=
  ⟨by simp [Instr.row, opcodeMap], admits_XY (by decide) x y _ rfl⟩

theorem shl (x y : Reg) : Statement (.shl x y) :=
  ⟨by simp [Instr.row, opcodeMap], admits_XY (by decide) x y _ rfl⟩

theorem ldI (nnn : BitVec 12) : Statement (.ldI nnn) :=
  ⟨by simp [Instr.row, opcodeMap], admits_A (by decide) nnn rfl⟩

theorem jpV0 (nnn : BitVec 12) : Statement (.jpV0 nnn) :=
  ⟨by simp [Instr.row, opcodeMap], admits_A (by decide) nnn rfl⟩

theorem rnd (x : Reg) (nn : Byte) : Statement (.rnd x nn) :=
  ⟨by simp [Instr.row, opcodeMap], admits_XNN (by decide) x nn rfl⟩

theorem drw (x y : Reg) (n : Fin 16) : Statement (.drw x y n) :=
  ⟨by simp [Instr.row, opcodeMap], admits_XYN (by decide) x y n rfl⟩

theorem skp (x : Reg) : Statement (.skp x) :=
  ⟨by simp [Instr.row, opcodeMap], admits_X (by decide) x _ rfl⟩

theorem sknp (x : Reg) : Statement (.sknp x) :=
  ⟨by simp [Instr.row, opcodeMap], admits_X (by decide) x _ rfl⟩

theorem ldVxDt (x : Reg) : Statement (.ldVxDt x) :=
  ⟨by simp [Instr.row, opcodeMap], admits_X (by decide) x _ rfl⟩

theorem ldDtVx (x : Reg) : Statement (.ldDtVx x) :=
  ⟨by simp [Instr.row, opcodeMap], admits_X (by decide) x _ rfl⟩

theorem ldStVx (x : Reg) : Statement (.ldStVx x) :=
  ⟨by simp [Instr.row, opcodeMap], admits_X (by decide) x _ rfl⟩

theorem addI (x : Reg) : Statement (.addI x) :=
  ⟨by simp [Instr.row, opcodeMap], admits_X (by decide) x _ rfl⟩

theorem ldF (x : Reg) : Statement (.ldF x) :=
  ⟨by simp [Instr.row, opcodeMap], admits_X (by decide) x _ rfl⟩

theorem ldB (x : Reg) : Statement (.ldB x) :=
  ⟨by simp [Instr.row, opcodeMap], admits_X (by decide) x _ rfl⟩

theorem storeRegs (x : Reg) : Statement (.storeRegs x) :=
  ⟨by simp [Instr.row, opcodeMap], admits_X (by decide) x _ rfl⟩

theorem loadRegs (x : Reg) : Statement (.loadRegs x) :=
  ⟨by simp [Instr.row, opcodeMap], admits_X (by decide) x _ rfl⟩

theorem ldVxK (x : Reg) : Statement (.ldVxK x) :=
  ⟨by simp [Instr.row, opcodeMap], admits_X (by decide) x _ rfl⟩

end Sys2Proof.Laws.OwnRow
end

