-- ==== Sys2Proof/Tests/Slice0.lean ====
section
/-! SUPPORT. Tests of this model: ill-formed words refused, a decoding for every constructor from words written out of
the pattern column of 30_encoding.md R76, single steps whose results are the vectors of 95_test_vectors.md (named in each
docstring), and for every obligation with hypotheses a concrete state that meets them. -/

namespace Sys2Proof.Tests

open Sys2Proof.Machine

/-- `p` holds of the state an outcome answers. -/
def answers (o : Host.Outcome State Fault Refusal) (p : State → Bool) : Bool :=
  match o with
  | .next t => p t
  | _ => false

/-- The state at creation with a word placed at 0x200 and then prepared. -/
def start (w : Nat) (prepare : State → State) : State := prepare (State.reset.withFetchWord 16 w)

/-- One step of `start w prepare`, and a check of the result. -/
def after (w : Nat) (prepare : State → State) (p : State → Bool) : Bool := answers (step (start w prepare)) p

/-- The report of a halted engine is FAULT{cause code, pc, word, word_valid, addr}. -/
def report (t : State) (code : BitVec 3) (pc word : Word) (valid : Bool) (addr : BitVec 17) : Bool :=
  t.halted && t.fault.cause.code == code && t.fault.pc == pc && t.fault.word == word && t.fault.wordValid == valid &&
    t.fault.addr == addr

/-! ### Ill-formed words (R77 to R82; V1 to V8) -/

theorem test_ill_formed_family0 :
    WordWellFormed 0x0000 = false ∧ WordWellFormed 0x0123 = false ∧ WordWellFormed 0x00E1 = false := by decide
theorem test_ill_formed_family5 : WordWellFormed 0x5AB1 = false := by decide
theorem test_ill_formed_family9 : WordWellFormed 0x9AB3 = false := by decide
theorem test_ill_formed_family8 :
    WordWellFormed 0x8AB8 = false ∧ WordWellFormed 0x8ABD = false ∧ WordWellFormed 0x8ABF = false := by decide
theorem test_ill_formed_familyE : WordWellFormed 0xE09F = false ∧ WordWellFormed 0xE000 = false := by decide
theorem test_ill_formed_familyF : WordWellFormed 0xF000 = false ∧ WordWellFormed 0xF0FF = false := by decide
theorem test_well_formed : WordWellFormed 0x00E0 = true ∧ WordWellFormed 0xFF65 = true := by decide
theorem test_decode_refuses_by_name :
    decodeBytes [0x5A, 0xB1, 0x00] = .error (.unmapped 0x5AB1) ∧ decodeBytes [0x12] = .error .truncated := by decide

/-! ### Decoding, every constructor, and the encoder on the same words (R76) -/

theorem test_decode_family0 : decodeWord 0x00E0 = some .cls ∧ decodeWord 0x00EE = some .ret := by decide
theorem test_decode_jumps :
    decodeWord 0x1ABC = some (.jp 0xABC) ∧ decodeWord 0x2ABC = some (.call 0xABC) ∧
      decodeWord 0xBFFF = some (.jpV0 0xFFF) := by decide
theorem test_decode_skips :
    decodeWord 0x3342 = some (.seImm 3 0x42) ∧ decodeWord 0x4342 = some (.sneImm 3 0x42) ∧
      decodeWord 0x5120 = some (.seReg 1 2) ∧ decodeWord 0x9120 = some (.sneReg 1 2) := by decide
theorem test_decode_immediates :
    decodeWord 0x62AB = some (.ldImm 2 0xAB) ∧ decodeWord 0x7202 = some (.addImm 2 0x02) ∧
      decodeWord 0xA123 = some (.ldI 0x123) ∧ decodeWord 0xC30F = some (.rnd 3 0x0F) := by decide
theorem test_decode_family8 :
    decodeWord 0x8340 = some (.ldReg 3 4) ∧ decodeWord 0x8341 = some (.orReg 3 4) ∧
      decodeWord 0x8342 = some (.andReg 3 4) ∧ decodeWord 0x8343 = some (.xorReg 3 4) ∧
      decodeWord 0x8AB4 = some (.addReg 0xA 0xB) ∧ decodeWord 0x8AB5 = some (.sub 0xA 0xB) ∧
      decodeWord 0x8AB6 = some (.shr 0xA 0xB) ∧ decodeWord 0x8AB7 = some (.subn 0xA 0xB) ∧
      decodeWord 0x8ABE = some (.shl 0xA 0xB) := by decide
theorem test_decode_draw_and_keys :
    decodeWord 0xD125 = some (.drw 1 2 5) ∧ decodeWord 0xE59E = some (.skp 5) ∧
      decodeWord 0xE5A1 = some (.sknp 5) := by decide
theorem test_decode_familyF :
    decodeWord 0xF307 = some (.ldVxDt 3) ∧ decodeWord 0xF20A = some (.ldVxK 2) ∧
      decodeWord 0xF315 = some (.ldDtVx 3) ∧ decodeWord 0xF318 = some (.ldStVx 3) ∧
      decodeWord 0xF51E = some (.addI 5) ∧ decodeWord 0xF429 = some (.ldF 4) ∧ decodeWord 0xF633 = some (.ldB 6) ∧
      decodeWord 0xF255 = some (.storeRegs 2) ∧ decodeWord 0xF265 = some (.loadRegs 2) := by decide
theorem test_encode :
    encode (.drw 1 2 5) = 0xD125 ∧ encode (.shl 0xA 0xB) = 0x8ABE ∧ encode (.jp 0xABC) = 0x1ABC ∧
      encode (.ldB 6) = 0xF633 := by decide
theorem test_table_word : decodeTableWord 16 0xD125 = some (.drw 1 2 5) ∧ decodeTableWord 16 0x5AB1 = none := by decide

/-! ### Single steps: control flow -/

/-- V20. -/
theorem test_ret :
    after 0x00EE (fun s => { s with sp := 1, stack := s.stack.set 0 0x0206 })
      (fun t => t.pc == 0x0206 && t.sp == 0) = true := by decide
/-- V21. -/
theorem test_ret_underflow : after 0x00EE id (fun t => report t 3 0x0200 0x00EE true 0) = true := by decide
/-- V22. -/
theorem test_jp : after 0x1ABC id (fun t => t.pc == 0x0ABC) = true := by decide
/-- V25: the 16th nested call succeeds. -/
theorem test_call :
    after 0x2300 (fun s => { s with sp := 15 })
      (fun t => t.pc == 0x0300 && t.sp == 16 && t.stack[15] == 0x0202) = true := by decide
/-- V26. -/
theorem test_call_overflow :
    after 0x2300 (fun s => { s with sp := 16 }) (fun t => report t 2 0x0200 0x2300 true 0 && t.sp == 16) = true := by
  decide
/-- V27. -/
theorem test_se_imm : after 0x3342 (·.setReg 3 0x42) (fun t => t.pc == 0x0204) = true := by decide
/-- V28. -/
theorem test_se_imm_not : after 0x3342 (·.setReg 3 0x41) (fun t => t.pc == 0x0202) = true := by decide
/-- V29. -/
theorem test_sne_imm : after 0x4342 (·.setReg 3 0x42) (fun t => t.pc == 0x0202) = true := by decide
/-- V32. -/
theorem test_se_reg : after 0x5120 (fun s => (s.setReg 1 7).setReg 2 8) (fun t => t.pc == 0x0202) = true := by decide
/-- V35. -/
theorem test_sne_reg : after 0x9120 (fun s => (s.setReg 1 7).setReg 2 8) (fun t => t.pc == 0x0204) = true := by decide
/-- V38: no masking to 12 bits. -/
theorem test_jp_v0 : after 0xBFFF (·.setReg 0 0xFF) (fun t => t.pc == 0x10FE) = true := by decide

/-! ### Single steps: register ALU -/

/-- V50. -/
theorem test_ld_imm : after 0x62AB id (fun t => t.reg 2 == 0xAB && t.reg 15 == 0 && t.pc == 0x0202) = true := by decide
/-- V51: no carry flag. -/
theorem test_add_imm :
    after 0x7202 (fun s => (s.setReg 2 0xFF).setReg 15 0x55) (fun t => t.reg 2 == 0x01 && t.reg 15 == 0x55) = true := by
  decide
/-- V52. -/
theorem test_ld_reg :
    after 0x8340 (fun s => (s.setReg 3 0x12).setReg 4 0x34) (fun t => t.reg 3 == 0x34) = true := by decide
/-- V53. -/
theorem test_or :
    after 0x8341 (fun s => ((s.setReg 3 0xF0).setReg 4 0x0F).setReg 15 9)
      (fun t => t.reg 3 == 0xFF && t.reg 15 == 9) = true := by decide
/-- V54. -/
theorem test_and :
    after 0x8342 (fun s => (s.setReg 3 0xF0).setReg 4 0x3C) (fun t => t.reg 3 == 0x30) = true := by decide
/-- V55. -/
theorem test_xor :
    after 0x8343 (fun s => (s.setReg 3 0xF0).setReg 4 0x3C) (fun t => t.reg 3 == 0xCC) = true := by decide
/-- V56. -/
theorem test_add_reg :
    after 0x8AB4 (fun s => (s.setReg 10 0xFF).setReg 11 0x01) (fun t => t.reg 10 == 0 && t.reg 15 == 1) = true := by
  decide
/-- V60: the carry overwrites the sum. -/
theorem test_add_reg_into_vf :
    after 0x8F14 (fun s => (s.setReg 15 0xFF).setReg 1 0x01) (fun t => t.reg 15 == 1) = true := by decide
/-- V62. -/
theorem test_sub :
    after 0x8AB5 (fun s => (s.setReg 10 3).setReg 11 5) (fun t => t.reg 10 == 0xFE && t.reg 15 == 0) = true := by decide
/-- V63: equal operands, no borrow. -/
theorem test_sub_equal :
    after 0x8AB5 (fun s => (s.setReg 10 7).setReg 11 7) (fun t => t.reg 10 == 0 && t.reg 15 == 1) = true := by decide
/-- V67. -/
theorem test_subn :
    after 0x8AB7 (fun s => (s.setReg 10 3).setReg 11 5) (fun t => t.reg 10 == 2 && t.reg 15 == 1) = true := by decide
/-- V69. -/
theorem test_shr :
    after 0x8AB6 (fun s => (s.setReg 10 0x81).setReg 11 2) (fun t => t.reg 10 == 0x40 && t.reg 15 == 1) = true := by
  decide
/-- V70: SHIFT_SOURCE = Vy. -/
theorem test_shr_vy :
    after 0x8AB6 (fun s => { (s.setReg 10 0x81).setReg 11 2 with params := { s.params with shiftSource := .vy } })
      (fun t => t.reg 10 == 1 && t.reg 15 == 0) = true := by decide
/-- V72. -/
theorem test_shl :
    after 0x8ABE (fun s => (s.setReg 10 0x81).setReg 11 2) (fun t => t.reg 10 == 2 && t.reg 15 == 1) = true := by decide
/-- V75. -/
theorem test_shl_into_vf : after 0x8FFE (·.setReg 15 0x80) (fun t => t.reg 15 == 1) = true := by decide
/-- V76. -/
theorem test_rnd : after 0xC30F ({ · with randByte := 0xAB }) (fun t => t.reg 3 == 0x0B) = true := by decide

/-! ### Single steps: index register and memory -/

/-- V80. -/
theorem test_ld_i : after 0xA123 id (fun t => t.i == 0x0123) = true := by decide
/-- V83: not masked to 12 bits, VF not written. -/
theorem test_add_i :
    after 0xF51E (fun s => ((s.setI 0x0FFF).setReg 5 0xFF).setReg 15 0x77)
      (fun t => t.i == 0x10FE && t.reg 15 == 0x77) = true := by decide
/-- V85: no fault above 15. -/
theorem test_ld_f : after 0xF429 (·.setReg 4 0xFF) (fun t => t.i == 0x04FB) = true := by decide
/-- V87: exactly fits. -/
theorem test_ld_b :
    after 0xF633 (fun s => (s.setI 0x0FFD).setReg 6 0xFF)
      (fun t => t.mem.getBytes 0xFFD 3 == [2, 5, 5] && t.i == 0x0FFD) = true := by decide
/-- V88. -/
theorem test_ld_b_fault :
    after 0xF633 (fun s => (s.setI 0x0FFE).setReg 6 1)
      (fun t => report t 5 0x0200 0xF633 true 0x1000 && t.mem.getBytes 0xFFE 2 == [0, 0]) = true := by decide
/-- V89. -/
theorem test_block_store :
    after 0xF255 (fun s => ((((s.setI 0x0300).setReg 0 1).setReg 1 2).setReg 2 3).setReg 3 4)
      (fun t => t.mem.getBytes 0x300 4 == [1, 2, 3, 0] && t.i == 0x0300) = true := by decide
/-- V92. -/
theorem test_block_load :
    after 0xF265 (fun s => (s.setI 0x0300).setMem (s.mem.setBytes 0x300 [9, 8, 7, 6]))
      (fun t => t.reg 0 == 9 && t.reg 1 == 8 && t.reg 2 == 7 && t.reg 3 == 0 && t.i == 0x0300) = true := by decide
/-- V94. -/
theorem test_block_load_fault :
    after 0xF065 (·.setI 0x1000) (fun t => report t 5 0x0200 0xF065 true 0x1000) = true := by decide

/-! ### Single steps: display -/

/-- V100. -/
theorem test_cls :
    after 0x00E0 (fun s => s.setFb (s.fb.xorPixel 0 0).2)
      (fun t => !t.fb.get 0 0 && t.fbUpdated && t.pc == 0x0202) = true := by decide
/-- V104: wraps at the right edge. -/
theorem test_drw_wraps :
    after 0xD121 (fun s => ((s.setI 0x0300).setMem (s.mem.setBytes 0x300 [0xC0])).setReg 1 63)
      (fun t => t.fb.get 0 63 && t.fb.get 0 0 && !t.fb.get 0 1 && t.reg 15 == 0 && t.fbUpdated) = true := by decide
/-- V102: a collision. -/
theorem test_drw_collision :
    after 0xD121 (fun s => s.setFb (s.fb.xorPixel 0 0).2)
      (fun t => !t.fb.get 0 0 && t.fb.get 0 3 && !t.fb.get 0 4 && t.reg 15 == 1) = true := by decide

/-! ### Single steps: keys and timers -/

/-- V120. -/
theorem test_skp :
    after 0xE59E (fun s => { s.setReg 5 7 with keys := 0x0080 }) (fun t => t.pc == 0x0204) = true := by decide
/-- V124. -/
theorem test_skp_fault :
    after 0xE59E (fun s => { s.setReg 5 0x17 with keys := 0x0080 })
      (fun t => report t 6 0x0200 0xE59E true 0) = true := by decide
/-- V122. -/
theorem test_sknp :
    after 0xE5A1 (fun s => { s.setReg 5 7 with keys := 0x0080 }) (fun t => t.pc == 0x0202) = true := by decide
/-- V126. -/
theorem test_ld_vx_dt : after 0xF307 (·.setDt 0x3C) (fun t => t.reg 3 == 0x3C) = true := by decide
/-- V127. -/
theorem test_ld_dt_vx : after 0xF315 (·.setReg 3 9) (fun t => t.dt == 9) = true := by decide
/-- V128. -/
theorem test_ld_st_vx : after 0xF318 (·.setReg 3 9) (fun t => t.st == 9 && t.outputs.soundActive) = true := by decide
/-- V129: waits. -/
theorem test_ld_vx_k_waits : after 0xF20A id (fun t => t.pc == 0x0200 && t.reg 2 == 0) = true := by decide
/-- V130: keys 4 and 7. -/
theorem test_ld_vx_k :
    after 0xF20A ({ · with keys := 0x0090 }) (fun t => t.reg 2 == 4 && t.pc == 0x0202) = true := by decide

/-! ### Faults of the fetch and the decoder, and the other requests -/

/-- V1. -/
theorem test_unmapped : after 0x0000 id (fun t => report t 1 0x0200 0x0000 true 0 && t.pc == 0x0200) = true := by decide
/-- V9. -/
theorem test_fetch_fault :
    after 0x00E0 ({ · with pc := 0x0FFF }) (fun t => report t 4 0x0FFF 0 false 0x1000) = true := by decide
/-- V132. -/
theorem test_tick :
    answers (step { State.reset with dt := 5, st := 1, agenda := [{ tick := true }] })
      (fun t => t.dt == 4 && t.st == 0) = true := by decide
/-- V143. -/
theorem test_quit :
    answers (step { State.reset with pc := 0x0234, agenda := [{ quit := true }] })
      (fun t => report t 7 0x0234 0 false 0) = true := by decide
/-- V145. -/
theorem test_reset :
    answers (step { (((State.reset.setReg 3 9).setMem (State.reset.mem.set 0x300 0x12)).halt .stackOverflow none 0) with
        pc := 0x0456, agenda := [{ reset := true }] })
      (fun t => t.pc == 0x0200 && t.reg 3 == 0 && !t.halted && t.fault == .clear && t.mem.get 0x300 == 0x12) = true := by
  decide
/-- V146: the quit is performed first. -/
theorem test_quit_before_step :
    answers (step { State.reset with agenda := [{ quit := true, step := true }] })
      (fun t => report t 7 0x0200 0 false 0) = true := by decide
/-- V147: the step is performed before the tick. -/
theorem test_step_before_tick :
    after 0xF015 (fun s => { s.setReg 0 5 with agenda := [{ step := true, tick := true }] })
      (fun t => t.dt == 4 && t.pc == 0x0202) = true := by decide
/-- A load of three bytes at 0x200 (70_reset_and_hazards.md R234). -/
theorem test_load :
    answers (step { State.reset with agenda := [{ load := some [1, 2, 3] }] })
      (fun t => t.mem.getBytes 0x1FF 5 == [0, 1, 2, 3, 0] && !t.loadErr) = true := by decide
/-- Nothing placed: 0x200 reads 0x0000, which is unmapped (log 5). -/
theorem test_reset_runs_into_unmapped :
    answers (step State.reset) (fun t => report t 1 0x0200 0 true 0) = true := by decide

/-! ### For every obligation with hypotheses, states and operands that meet them

One theorem for each obligation, named after it, with every clause at a boundary of its range. -/

/-- The state at creation with a memory, for fetches at `pc`. -/
def at_ (pc : Word) (bytes : List Byte) : State :=
  { State.reset with pc := pc, mem := State.reset.mem.setBytes pc.toNat bytes }

/-- The state at creation halted by a quit. -/
def quitted : State := State.reset.quitRequest

theorem witness_ResetRequestRestoresAllButMemory :
    { quitted with agenda := [{ reset := true, keys := 1, randByte := 2 }] }.agenda =
      { reset := true, keys := 1, randByte := 2 } :: [] := rfl

theorem witness_OneRequestIsItsTransaction :
    { State.reset with keys := 1, randByte := 2, agenda := [{ step := true }] } =
      { quitted.resetRequest with keys := 1, randByte := 2, agenda := [{ step := true }] } := rfl

/-- The longest load that fits and the shortest that does not (V140, V141). -/
theorem witness_LoadWritesProgramOrRefusesWhole :
    ({ State.reset with agenda := [{ load := some (List.replicate 3584 7) }] }.agenda =
        { load := some (List.replicate 3584 7), keys := 0, randByte := 0 } :: [] ∧
      (List.replicate 3584 (7 : Byte)).length ≤ 3584) ∧
    ({ State.reset with agenda := [{ load := some (List.replicate 3585 7) }] }.agenda =
        { load := some (List.replicate 3585 7), keys := 0, randByte := 0 } :: [] ∧
      3584 < (List.replicate 3585 (7 : Byte)).length) :=
  ⟨⟨rfl, by rw [List.length_replicate]⟩, rfl, by rw [List.length_replicate]; decide⟩

theorem witness_QuitHaltsBetweenSteps :
    { State.reset with agenda := [{ quit := true }] }.halted = false ∧
      { State.reset with agenda := [{ quit := true }] }.agenda = { quit := true, keys := 0, randByte := 0 } :: [] := by
  decide

theorem witness_TickCountsBothTimersDownToZero :
    quitted.halted = true ∧ { State.reset with dt := 1, st := 0 }.halted = false := by decide

/-- A lone step and a step among an instant's requests, each at the last address a fetch reads. -/
theorem witness_StepRunsTheDecodedInstruction :
    ((at_ 0x0FFE [0x00, 0xE0]).agenda = [] ∧ (at_ 0x0FFE [0x00, 0xE0]).halted = false ∧
      (at_ 0x0FFE [0x00, 0xE0]).pc.toNat + 1 < 4096 ∧ decodeWord (at_ 0x0FFE [0x00, 0xE0]).nextWord = some .cls) ∧
    ({ at_ 0x0FFE [0x00, 0xE0] with agenda := [{ step := true, tick := true }] }.agenda =
        { step := true, tick := true } :: [] ∧
      (Instant.beforeStep { step := true, tick := true } { at_ 0x0FFE [0x00, 0xE0] with agenda := [] }).halted = false ∧
      (Instant.beforeStep { step := true, tick := true } { at_ 0x0FFE [0x00, 0xE0] with agenda := [] }).pc.toNat + 1 <
        4096 ∧
      decodeWord (Instant.beforeStep { step := true, tick := true }
        { at_ 0x0FFE [0x00, 0xE0] with agenda := [] }).nextWord = some .cls) := by
  decide

theorem witness_PlacedWordRunsNext : (at_ 0x0FFE []).pc.toNat + 1 < 4096 := by decide

theorem witness_FetchIsBigEndianAndRangeChecked :
    (at_ 0x0FFE []).pc.toNat + 1 < 4096 ∧ (at_ 0x0FFF []).pc.toNat = 4095 ∧ 4096 ≤ (at_ 0x1000 []).pc.toNat ∧
      4096 ≤ (at_ 0xFFFF []).pc.toNat := by
  decide

theorem witness_UnfetchableAndUnmappedStepsHalt :
    ((at_ 0x0FFF []).agenda = [] ∧ (at_ 0x0FFF []).halted = false ∧ 4096 ≤ (at_ 0x0FFF []).pc.toNat + 1) ∧
    ((at_ 0x0FFE []).agenda = [] ∧ (at_ 0x0FFE []).halted = false ∧ (at_ 0x0FFE []).pc.toNat + 1 < 4096 ∧
      decodeWord (at_ 0x0FFE []).nextWord = none) := by
  decide

/-- A completed jump onto another instruction. -/
theorem witness_SequencerSetsProgramCounter :
    (at_ 0x0300 [0x00, 0xE0]).halted = false ∧
      ∃ t, exec (.jp 0x300) (at_ 0x0300 [0x00, 0xE0]) = .next t ∧ t.halted = false ∧ t.pc.toNat + 1 < 4096 ∧
        decodeWord t.nextWord = some .cls :=
  ⟨by decide, _, rfl, by decide, by decide, by decide⟩

/-- An execution for each cause that halts, and one that completes. -/
theorem witness_OnlyListedInstructionsCanHalt :
    State.reset.halted = false ∧ (∃ t, exec .ret State.reset = .next t ∧ t.halted = true) ∧
      (∃ t, exec (.call 0x300) { State.reset with sp := 16 } = .next t ∧ t.halted = true) ∧
      (∃ t, exec (.drw 0 0 1) (State.reset.setI 0x1000) = .next t ∧ t.halted = true) ∧
      (∃ t, exec (.ldB 0) (State.reset.setI 0x0FFE) = .next t ∧ t.halted = true) ∧
      (∃ t, exec (.storeRegs 15) (State.reset.setI 0x0FF1) = .next t ∧ t.halted = true) ∧
      (∃ t, exec (.loadRegs 0) (State.reset.setI 0x1000) = .next t ∧ t.halted = true) ∧
      (∃ t, exec (.skp 0) (State.reset.setReg 0 16) = .next t ∧ t.halted = true) ∧
      ∃ t, exec (.sknp 0) (State.reset.setReg 0 16) = .next t ∧ t.halted = true :=
  ⟨by decide, ⟨_, rfl, by decide⟩, ⟨_, rfl, by decide⟩, ⟨_, rfl, by decide⟩, ⟨_, rfl, by decide⟩,
    ⟨_, rfl, by decide⟩, ⟨_, rfl, by decide⟩, ⟨_, rfl, by decide⟩, ⟨_, rfl, by decide⟩⟩

theorem witness_FatalExecutionDiscardsEveryEffect :
    State.reset.halted = false ∧ (∃ t, exec .ret State.reset = .next t ∧ t.halted = true) ∧
      (State.reset.setI 0x0FFE).halted = false ∧
      ∃ t, exec (.ldB 0) (State.reset.setI 0x0FFE) = .next t ∧ t.halted = true ∧ t.fault.cause = .dataOutOfRange :=
  ⟨by decide, ⟨_, rfl, by decide⟩, by decide, _, rfl, by decide, by decide⟩

/-- Alone, with every request that has no effect, and with a load. -/
theorem witness_HaltedEngineIgnoresStepTickAndQuit :
    (quitted.halted = true ∧ quitted.agenda = []) ∧
    ({ quitted with agenda := [{ step := true, tick := true, quit := true }] }.halted = true ∧
      { quitted with agenda := [{ step := true, tick := true, quit := true }] }.agenda =
        { step := true, tick := true, quit := true } :: []) ∧
    { quitted with agenda := [{ load := some [1], step := true }] }.halted = true ∧
      { quitted with agenda := [{ load := some [1], step := true }] }.agenda =
        { load := some [1], step := true } :: [] := by
  decide

theorem witness_HaltedStateIsLeftOnlyByReset :
    ({ quitted with agenda := [{ step := true }] }.halted = true ∧
      (∃ t, step { quitted with agenda := [{ step := true }] } = .next t) ∧
      ∀ p rest, { quitted with agenda := [{ step := true }] }.agenda = p :: rest → p.reset = false) ∧
    { quitted with agenda := [{ reset := true, tick := true }] }.agenda = { reset := true, tick := true } :: [] :=
  ⟨⟨by decide, ⟨_, rfl⟩, fun p rest h => by cases h; rfl⟩, rfl⟩

theorem witness_LogicalStatesFollowTheStateMachine : State.reset.halted = false ∧ quitted.halted = true := by decide

/-- A fetching state and a halted one that meet the invariant, each with its transaction. -/
theorem witness_EveryTransactionKeepsTheInvariant :
    (State.reset.Inv ∧ ∃ t, step State.reset = .next t) ∧ (quitted.Inv ∧ ∃ t, step quitted = .next t) :=
  ⟨⟨⟨by decide, rfl, rfl⟩, _, rfl⟩, ⟨by decide, by decide, by decide, by decide, fun _ => by decide, by decide⟩, _, rfl⟩

/-- For each part an execution that changes it. -/
theorem witness_StateIsWrittenOnlyByItsInstructions :
    (∃ t, exec (.ldI 5) State.reset = .next t ∧ t.i ≠ State.reset.i) ∧
    (∃ t, exec (.call 0x300) State.reset = .next t ∧ (t.sp ≠ State.reset.sp ∨ t.stack ≠ State.reset.stack)) ∧
    (∃ t, exec (.ldDtVx 0) (State.reset.setReg 0 9) = .next t ∧ t.dt ≠ (State.reset.setReg 0 9).dt) ∧
    (∃ t, exec (.ldStVx 0) (State.reset.setReg 0 9) = .next t ∧ t.st ≠ (State.reset.setReg 0 9).st) ∧
    (∃ t, exec (.drw 0 0 1) State.reset = .next t ∧ t.fb.get 0 0 ≠ State.reset.fb.get 0 0) ∧
    ∃ t, exec (.storeRegs 0) (State.reset.setI 0x0FFF |>.setReg 0 9) = .next t ∧ t.mem ≠ State.reset.mem :=
  ⟨⟨_, rfl, by decide⟩, ⟨_, rfl, by decide⟩, ⟨_, rfl, by decide⟩, ⟨_, rfl, by decide⟩, ⟨_, rfl, by decide⟩,
    ⟨_, rfl, by decide⟩⟩

/-- The last register outside the destinations, and a completed instruction that writes its flag into its destination. -/
theorem witness_RegistersAreWrittenOnlyAsDestinationOrFlag :
    State.reset.halted = false ∧
    (∃ t, exec (.addImm 14 1) State.reset = .next t ∧ (15 : Reg) ∉ destRegs (.addImm 14 1) ∧
      ¬((15 : Reg) = vf ∧ writesFlag (.addImm 14 1) = true)) ∧
    ∃ t, exec (.addReg 15 0) State.reset = .next t ∧ writesFlag (.addReg 15 0) = true ∧ t.halted = false :=
  ⟨by decide, ⟨_, rfl, by decide, by decide⟩, _, rfl, by decide, by decide⟩

theorem witness_TimersAndDisplayAreReadOnlyByTheirInstructions :
    (∀ x, Instr.cls ≠ .ldVxDt x) ∧ ∀ x y n, Instr.cls ≠ .drw x y n := by
  simp

/-- An execution that completes with FB_UPDATED = 1, one with 0, and one that halts. -/
theorem witness_SoundAndUpdateOutputsFollowTheState :
    State.reset.halted = false ∧ (∃ t, exec .cls State.reset = .next t ∧ t.halted = false) ∧
      (∃ t, exec (.jp 0) State.reset = .next t ∧ t.halted = false) ∧
      ∃ t, exec .ret State.reset = .next t ∧ t.halted = true :=
  ⟨by decide, ⟨_, rfl, by decide⟩, ⟨_, rfl, by decide⟩, _, rfl, by decide⟩

/-- A CLS and a DRW that change the framebuffer. -/
theorem witness_FramebufferChangesOnlyByClearAndXor :
    after 0x00E0 (fun s => s.setFb (s.fb.xorPixel 31 63).2) (fun t => !t.fb.get 31 63) = true ∧
      (start 0x00E0 fun s => s.setFb (s.fb.xorPixel 31 63).2).fb.get 31 63 = true ∧
      after 0xD001 id (fun t => t.fb.get 0 0) = true ∧ (start 0xD001 id).fb.get 0 0 = false := by
  decide

theorem witness_PopTakesTheNewestEntry :
    State.reset.sp.val = 0 ∧ { State.reset with sp := 1 }.sp.val ≠ 0 ∧ { State.reset with sp := 16 }.sp.val ≠ 0 := by
  decide

theorem witness_CallPushesReturnAddress : { State.reset with sp := 15 }.sp.val < 16 := by decide

theorem witness_ReturnPopsItsTarget :
    { State.reset with sp := 1 }.sp.val ≠ 0 ∧ { State.reset with sp := 16 }.sp.val ≠ 0 := by decide

theorem witness_StackFaultsHalt : { State.reset with sp := 16 }.sp.val = 16 ∧ State.reset.sp.val = 0 := by decide

/-- The state the call leaves, with another register changed since. -/
theorem witness_CallThenReturnResumesAfterTheCall :
    { State.reset with sp := 15 }.sp.val < 16 ∧
      ∃ t, exec (.call 0x300) { State.reset with sp := 15 } = .next t ∧ (t.setReg 3 1).sp = t.sp ∧
        (t.setReg 3 1).stack[15]? = t.stack[15]? :=
  ⟨by decide, _, rfl, rfl, rfl⟩

/-- Both values of SHIFT_SOURCE. -/
theorem witness_ShiftsMoveOneBitIntoFlag :
    (0x81 : Byte) = (if (State.reset.setReg 1 0x81).params.shiftSource = .vx then (State.reset.setReg 1 0x81).reg 1
      else (State.reset.setReg 1 0x81).reg 2) ∧
    (0 : Byte) = (if { State.reset.setReg 1 0x81 with params := { Config.Params.default with shiftSource := .vy } }.params.shiftSource
          = .vx
        then (State.reset.setReg 1 0x81).reg 1 else (State.reset.setReg 1 0x81).reg 2) := by
  decide

theorem witness_BcdStoreWritesThreeDigits : (State.reset.setI 0x0FFD).i.toNat + 2 < 4096 := by decide

theorem witness_BlockStoreWritesRegistersInOrder : (State.reset.setI 0x0FF0).i.toNat + (15 : Reg).val < 4096 := by decide

theorem witness_BlockLoadReadsRegistersInOrder : (State.reset.setI 0x0FFF).i.toNat + (0 : Reg).val < 4096 := by decide

/-- Each instruction at the first address that is too high for it. -/
theorem witness_DataOutOfRangeHalts :
    (1 ≤ dataBytes (.ldB 0) ∧ 4096 ≤ (State.reset.setI 0x0FFE).i.toNat + dataBytes (.ldB 0) - 1) ∧
    (1 ≤ dataBytes (.storeRegs 15) ∧ 4096 ≤ (State.reset.setI 0x0FF1).i.toNat + dataBytes (.storeRegs 15) - 1) ∧
    (1 ≤ dataBytes (.loadRegs 0) ∧ 4096 ≤ (State.reset.setI 0x1000).i.toNat + dataBytes (.loadRegs 0) - 1) ∧
    (1 ≤ dataBytes (.drw 0 0 1) ∧ 4096 ≤ (State.reset.setI 0xFFFF).i.toNat + dataBytes (.drw 0 0 1) - 1) := by
  decide

/-- After a store of the highest block that fits, a state with other registers. -/
theorem witness_BlockLoadInvertsBlockStore :
    (State.reset.setI 0x0FF0).i.toNat + (15 : Reg).val < 4096 ∧
      ∃ t, exec (.storeRegs 15) (State.reset.setI 0x0FF0) = .next t ∧ (t.setReg 3 1).i = t.i ∧
        ∀ a, (t.setReg 3 1).mem.get a = t.mem.get a :=
  ⟨by decide, _, rfl, rfl, fun _ => rfl⟩

/-- A store onto both bytes of the next instruction, and one that ends just before it. -/
theorem witness_StoredBytesAreFetchedNext :
    ((State.reset.setI 0x0202).i.toNat + (1 : Reg).val < 4096 ∧ (State.reset.setI 0x0202).pc.toNat + 3 < 4096 ∧
      (State.reset.setI 0x0202).ea 0 = (State.reset.setI 0x0202).pc.toNat + 2 ∧
      (State.reset.setI 0x0202).ea 1 = (State.reset.setI 0x0202).pc.toNat + 3) ∧
    ((State.reset.setI 0x0201).ea 1 ≤ (State.reset.setI 0x0201).pc.toNat + 2 ∧
      (State.reset.setI 0x0201).ea 1 ≤ (State.reset.setI 0x0201).pc.toNat + 3) := by
  decide

/-- No rows, and the last byte of memory; a covered cell that is set, and a sprite that covers none. -/
theorem witness_DrawInvertsExactlyTheSpriteCells :
    (0 : Fin 16).val = 0 ∧ (State.reset.setI 0x0FFF).i.toNat + (1 : Fin 16).val - 1 < 4096 ∧
      (∃ row col, SpriteCovers (State.reset.setFb (Framebuffer.clear.xorPixel 0 3).2) 0 0 1 row col ∧
        (State.reset.setFb (Framebuffer.clear.xorPixel 0 3).2).fb.get row col = true) ∧
      ¬∃ row col, SpriteCovers State.reset 0 0 0 row col ∧ State.reset.fb.get row col = true :=
  ⟨rfl, by decide, ⟨0, 3, ⟨0, by decide, 3, by decide, by decide, by decide, by decide⟩, by decide⟩,
    fun ⟨_, _, ⟨r, hr, _⟩, _⟩ => absurd hr (Nat.not_lt_zero r)⟩

theorem witness_DrawingTwiceErases :
    State.reset.i.toNat + (5 : Fin 16).val - 1 < 4096 ∧
      (∃ t, exec (.drw 1 2 5) State.reset = .next t ∧ t.reg 1 = State.reset.reg 1 ∧ t.reg 2 = State.reset.reg 2) ∧
      ∀ row col, State.reset.fb.get row col = false :=
  ⟨by decide, ⟨_, rfl, by decide, by decide⟩, fun _ _ => Framebuffer.get_clear ..⟩

theorem witness_KeySkipsFollowTheSampledKey :
    ((State.reset.setReg 5 15).reg 5).toNat < 16 ∧
      { State.reset with params := { Config.Params.default with keyIndexOverflow := .mask } }.params.keyIndexOverflow =
        .mask := by
  decide

theorem witness_KeyNumberAboveFifteenHalts :
    15 < ((State.reset.setReg 5 16).reg 5).toNat ∧ (State.reset.setReg 5 16).params.keyIndexOverflow = .fatal := by
  decide

/-- The lowest and the highest key, and none. -/
theorem witness_WaitForKeyTakesTheLowestOrWaits :
    ({ State.reset with keys := 0xFFFF }.keys.getLsbD 0 = true ∧
      ∀ j < 0, { State.reset with keys := 0xFFFF }.keys.getLsbD j = false) ∧
    ({ State.reset with keys := 0x8000 }.keys.getLsbD 15 = true ∧
      ∀ j < 15, { State.reset with keys := 0x8000 }.keys.getLsbD j = false) ∧
    State.reset.keys = 0 := by
  decide

end Sys2Proof.Tests
end

section
/-! SUPPORT. What each instruction can write, said once for all of them: the shape of the state a completed execution
leaves. The rules over all instructions (10_state.md R21 to R28, R44) are read off it. -/

namespace Sys2Proof.Machine

/-- `Completes s i t`: `t` is a state that a completed execution of `i` from `s` can leave. Each instruction writes the
parts its constructor names; which values it writes there is left open. -/
inductive Completes (s : State) : Instr → State → Prop
  | cls : Completes s .cls ((s.setFb Framebuffer.clear).advance true)
  | ret (sp) (p : Word) : Completes s .ret ({ s with sp := sp }.complete p)
  | jp (nnn) (p : Word) : Completes s (.jp nnn) (s.complete p)
  | call (nnn sp stack) (p : Word) : Completes s (.call nnn) ({ s with stack := stack, sp := sp }.complete p)
  | seImm (x nn taken) : Completes s (.seImm x nn) (s.skipIf taken)
  | sneImm (x nn taken) : Completes s (.sneImm x nn) (s.skipIf taken)
  | seReg (x y taken) : Completes s (.seReg x y) (s.skipIf taken)
  | sneReg (x y taken) : Completes s (.sneReg x y) (s.skipIf taken)
  | ldImm (x nn b) : Completes s (.ldImm x nn) (s.setReg x b).advance
  | addImm (x nn b) : Completes s (.addImm x nn) (s.setReg x b).advance
  | ldReg (x y b) : Completes s (.ldReg x y) (s.setReg x b).advance
  | orReg (x y b) : Completes s (.orReg x y) (s.setReg x b).advance
  | andReg (x y b) : Completes s (.andReg x y) (s.setReg x b).advance
  | xorReg (x y b) : Completes s (.xorReg x y) (s.setReg x b).advance
  | addReg (x y b flag) : Completes s (.addReg x y) (s.setRegAndFlag x b (flagByte flag)).advance
  | sub (x y b flag) : Completes s (.sub x y) (s.setRegAndFlag x b (flagByte flag)).advance
  | shr (x y b flag) : Completes s (.shr x y) (s.setRegAndFlag x b (flagByte flag)).advance
  | subn (x y b flag) : Completes s (.subn x y) (s.setRegAndFlag x b (flagByte flag)).advance
  | shl (x y b flag) : Completes s (.shl x y) (s.setRegAndFlag x b (flagByte flag)).advance
  | ldI (nnn w) : Completes s (.ldI nnn) (s.setI w).advance
  | jpV0 (nnn) (p : Word) : Completes s (.jpV0 nnn) (s.complete p)
  | rnd (x nn b) : Completes s (.rnd x nn) (s.randDrawn.setReg x b).advance
  | drw (x y n fb flag) : Completes s (.drw x y n) (((s.setFb fb).setReg vf (flagByte flag)).advance true)
  | skp (x taken) : Completes s (.skp x) (s.keysSampled.skipIf taken)
  | sknp (x taken) : Completes s (.sknp x) (s.keysSampled.skipIf taken)
  | ldVxDt (x b) : Completes s (.ldVxDt x) (s.setReg x b).advance
  | ldDtVx (x b) : Completes s (.ldDtVx x) (s.setDt b).advance
  | ldStVx (x b) : Completes s (.ldStVx x) (s.setSt b).advance
  | addI (x w) : Completes s (.addI x) (s.setI w).advance
  | ldF (x w) : Completes s (.ldF x) (s.setI w).advance
  | ldB (x m) : Completes s (.ldB x) (s.setMem m).advance
  | storeRegs (x m) : Completes s (.storeRegs x) (s.setMem m).advance
  | loadRegs (x bs) : Completes s (.loadRegs x) (s.setRegsUpTo x bs).advance
  | ldVxK (x b) : Completes s (.ldVxK x) (s.keysSampled.setReg x b).advance
  | ldVxKWaits (x) : Completes s (.ldVxK x) (s.keysSampled.complete s.pc)

/-- A pop changes nothing but SP (40_control_flow.md R101). -/
theorem State.pop_eq_some {s t : State} {w : Word} (h : s.pop = some (w, t)) : t = { s with sp := t.sp } := by
  unfold State.pop at h
  split at h
  · cases h
  · cases h; rfl

/-- A push changes nothing but SP and the stack (40_control_flow.md R100). -/
theorem State.push_eq_some {s t : State} {w : Word} (h : s.push w = some t) :
    t = { s with stack := t.stack, sp := t.sp } := by
  unfold State.push at h
  split at h
  · cases h; rfl
  · cases h

/-- An execution completes, writing what its instruction may write, or halts, writing HALTED and FAULT alone
(60_exceptions.md R202, R203). -/
theorem exec_completes_or_halts {i : Instr} {s t : State} (h : exec i s = .next t) :
    Completes s i t ∨ ∃ c a, t = s.halt c (some (encode i)) a := by
  cases i with
  | ret =>
    simp only [exec, execRet] at h
    split at h
    · cases h; exact .inr ⟨_, _, rfl⟩
    · rename_i hp
      cases h; rw [State.pop_eq_some hp]; exact .inl (.ret ..)
  | call nnn =>
    simp only [exec, execCall] at h
    split at h
    · cases h; exact .inr ⟨_, _, rfl⟩
    · rename_i hp
      cases h; rw [State.push_eq_some hp]; exact .inl (.call ..)
  | drw | ldB | storeRegs | loadRegs =>
    simp only [exec, execDrw, execLdB, execStoreRegs, execLoadRegs] at h
    split at h <;> cases h
    · exact .inl (by constructor)
    · exact .inr ⟨_, _, rfl⟩
  | skp | sknp =>
    simp only [exec, execSkp, execSknp] at h
    split at h <;> cases h
    · exact .inr ⟨_, _, rfl⟩
    · exact .inl (by constructor)
  | ldVxK x =>
    cases h
    cases s.lowestKey with
    | none => exact .inl (.ldVxKWaits x)
    | some k => exact .inl (.ldVxK ..)
  | _ => cases h; exact .inl (by constructor)

/-- Every execution answers a next state. -/
theorem exec_total (i : Instr) (s : State) : ∃ t, exec i s = .next t := by
  rcases exec_cases i s with ⟨t, ht, -⟩ | ⟨c, a, ht, -⟩
  · exact ⟨t, ht⟩
  · exact ⟨_, ht⟩

theorem flagByte_eq (b : Bool) : flagByte b = 0 ∨ flagByte b = 1 := by cases b <;> simp [flagByte]

/-- Settles O25: a completed execution writes what its constructor of `Completes` names, a halting one none of these. -/
theorem stateIsWrittenOnlyByItsInstructions : Obligations.StateIsWrittenOnlyByItsInstructions := by
  intro i s t h
  rcases exec_completes_or_halts h with hc | ⟨c, a, rfl⟩
  · cases hc <;> simp
  · simp

/-- The registers a completed execution leaves alone (10_state.md R22). -/
theorem Completes.reg_of_not_mem {i : Instr} {s t : State} (h : Completes s i t) {r : Reg} (hd : r ∉ destRegs i)
    (hf : ¬(r = vf ∧ writesFlag i = true)) : t.reg r = s.reg r := by
  cases h with
  | ret | call => rfl
  | _ => simp_all [destRegs, writesFlag]

/-- A completed execution that writes the flag leaves 0 or 1 in VF (10_state.md R22; D9). -/
theorem Completes.vf_of_writesFlag {i : Instr} {s t : State} (h : Completes s i t) (hf : writesFlag i = true) :
    t.reg vf = 0 ∨ t.reg vf = 1 := by
  cases h with
  | addReg | sub | shr | subn | shl | drw => simpa using flagByte_eq _
  | _ => cases hf

/-- Settles O26: a completed execution keeps to its destinations and its flag, a halting one writes no register. -/
theorem registersAreWrittenOnlyAsDestinationOrFlag : Obligations.RegistersAreWrittenOnlyAsDestinationOrFlag := by
  intro i s t _ h
  rcases exec_completes_or_halts h with hc | ⟨c, a, rfl⟩
  · exact ⟨fun r hd hf => hc.reg_of_not_mem hd hf, fun hf _ => hc.vf_of_writesFlag hf⟩
  · simp

@[simp] theorem State.tickRequest_fbUpdated (s : State) : s.tickRequest.fbUpdated = s.fbUpdated := by
  unfold State.tickRequest
  split <;> rfl

@[simp] theorem State.quitRequest_fbUpdated (s : State) : s.quitRequest.fbUpdated = s.fbUpdated := by
  unfold State.quitRequest
  split <;> rfl

@[simp] theorem State.loadRequest_fbUpdated (s : State) (bytes : List Byte) :
    (s.loadRequest bytes).fbUpdated = s.fbUpdated := by
  unfold State.loadRequest
  split <;> rfl

/-- Settles O28: each constructor of `Completes` fixes FB_UPDATED, and a halt leaves it. -/
theorem soundAndUpdateOutputsFollowTheState : Obligations.SoundAndUpdateOutputsFollowTheState := by
  refine ⟨fun s => ?_, fun i s t hh h => ?_, fun s bytes => ?_⟩
  · simp [State.outputs, State.soundActive]
  · rcases exec_completes_or_halts h with hc | ⟨c, a, rfl⟩
    · cases hc <;> simp [State.outputs, hh]
    · rfl
  · simp [State.outputs]

end Sys2Proof.Machine
end

section
/-! SUPPORT. What executing an instruction does not read (10_state.md R27, R28; 60_exceptions.md R218): an update of DT,
ST, the framebuffer or the agenda passes through it. -/

namespace Sys2Proof.Machine

/-- `s` with DT, ST, the framebuffer and the agenda each put through a function. -/
def State.mapUnread (d e : Byte → Byte) (k : Framebuffer → Framebuffer) (g : List Instant → List Instant)
    (s : State) : State :=
  { s with dt := d s.dt, st := e s.st, fb := k s.fb, agenda := g s.agenda }

section
variable (d e : Byte → Byte) (k : Framebuffer → Framebuffer) (g : List Instant → List Instant) (s : State)

theorem State.setSt_eq_mapUnread (b : Byte) : s.setSt b = s.mapUnread id (fun _ => b) id id := rfl

theorem State.setDt_eq_mapUnread (b : Byte) : s.setDt b = s.mapUnread (fun _ => b) id id id := rfl

theorem State.setFb_eq_mapUnread (fb : Framebuffer) : s.setFb fb = s.mapUnread id id (fun _ => fb) id := rfl

theorem State.pop_mapUnread :
    (s.mapUnread d e k g).pop = s.pop.map fun p => (p.1, p.2.mapUnread d e k g) := by
  unfold State.pop
  by_cases h : s.sp.val = 0
  · simp [State.mapUnread, h]
  · simp [State.mapUnread, h]

theorem State.push_mapUnread (w : Word) :
    (s.mapUnread d e k g).push w = (s.push w).map (State.mapUnread d e k g) := by
  unfold State.push
  by_cases h : s.sp.val < Config.stackDepth
  · simp [State.mapUnread, h]
  · simp [State.mapUnread, h]

theorem State.rangeOk_mapUnread (m : Nat) : (s.mapUnread d e k g).rangeOk m = s.rangeOk m := rfl

theorem State.keyOf_mapUnread (x : Reg) :
    (s.mapUnread d e k g).keyOf ((s.mapUnread d e k g).reg x) = s.keyOf (s.reg x) := rfl

theorem State.lowestKey_mapUnread : (s.mapUnread d e k g).lowestKey = s.lowestKey := rfl

end

/-- An update of DT, ST, the framebuffer and the agenda before an execution is that update after it, unless it changes
DT at LD Vx, DT or LD DT, Vx, changes ST at LD ST, Vx, or changes the framebuffer at CLS or DRW. -/
theorem exec_mapUnread {d e : Byte → Byte} {k : Framebuffer → Framebuffer} {i : Instr}
    (hd : d = id ∨ (∀ x, i ≠ .ldVxDt x) ∧ ∀ x, i ≠ .ldDtVx x) (he : e = id ∨ ∀ x, i ≠ .ldStVx x)
    (hk : k = id ∨ i ≠ .cls ∧ ∀ x y n, i ≠ .drw x y n) (g : List Instant → List Instant) (s : State) :
    exec i (s.mapUnread d e k g) = thenDo (State.mapUnread d e k g) (exec i s) := by
  cases i with
  | ldVxDt | ldDtVx =>
    obtain rfl : d = id := by simpa using hd
    rfl
  | ldStVx =>
    obtain rfl : e = id := by simpa using he
    rfl
  | cls =>
    obtain rfl : k = id := by simpa using hk
    rfl
  | drw x y n =>
    obtain rfl : k = id := by simpa using hk
    by_cases hr : n.val = 0 ∨ s.rangeOk n.val = true <;>
      simp only [exec, execDrw, State.rangeOk_mapUnread, hr] <;> rfl
  | ret =>
    simp only [exec, execRet, State.pop_mapUnread]
    cases s.pop <;> rfl
  | call =>
    have hpc : (s.mapUnread d e k g).pc = s.pc := rfl
    simp only [exec, execCall, hpc, State.push_mapUnread]
    cases s.push (s.pc + 2) <;> rfl
  | ldB x =>
    cases hr : s.rangeOk 3 <;> simp only [exec, execLdB, State.rangeOk_mapUnread, hr] <;> rfl
  | storeRegs x | loadRegs x =>
    cases hr : s.rangeOk (x.val + 1) <;>
      simp only [exec, execStoreRegs, execLoadRegs, State.rangeOk_mapUnread, hr] <;> rfl
  | skp x | sknp x =>
    simp only [exec, execSkp, execSknp, State.keyOf_mapUnread]
    cases s.keyOf (s.reg x) <;> rfl
  | ldVxK =>
    simp only [exec, execLdVxK, State.lowestKey_mapUnread]
    cases s.lowestKey <;> rfl
  | _ => rfl

/-- Settles O27: the instruction that overwrites the changed value takes both runs to the same state, every other one
passes the change through. -/
theorem timersAndDisplayAreReadOnlyByTheirInstructions :
    Obligations.TimersAndDisplayAreReadOnlyByTheirInstructions := by
  intro i s
  obtain ⟨t, ht⟩ := exec_total i s
  refine ⟨t, ht, fun b => ?_, fun hread b => ?_, fun hread fb => ?_⟩
  · by_cases hw : ∃ x, i = .ldStVx x
    · obtain ⟨x, rfl⟩ := hw
      exact .inl ht
    · right
      rw [State.setSt_eq_mapUnread, exec_mapUnread (.inl rfl) (.inr (not_exists.1 hw)) (.inl rfl), ht]
      rfl
  · by_cases hw : ∃ x, i = .ldDtVx x
    · obtain ⟨x, rfl⟩ := hw
      exact .inl ht
    · right
      rw [State.setDt_eq_mapUnread, exec_mapUnread (.inr ⟨hread, not_exists.1 hw⟩) (.inl rfl) (.inl rfl), ht]
      rfl
  · by_cases hw : i = .cls
    · subst hw
      exact .inl ht
    · right
      rw [State.setFb_eq_mapUnread, exec_mapUnread (.inl rfl) (.inl rfl) (.inr ⟨hw, hread⟩), ht]
      rfl

end Sys2Proof.Machine
end

section
/-! SUPPORT. One instant as a chain of optional requests (10_state.md R40, R41): what a transaction does with the head
of the agenda, and that the requests other than the step neither read nor write the inputs and the agenda. -/

namespace Sys2Proof.Machine

/-! ### The requests of an instant, each performed if it is presented -/

def State.resetIf (s : State) (b : Bool) : State := if b then s.resetRequest else s

def State.loadIf (s : State) (program : Option (List Byte)) : State :=
  match program with
  | some bytes => s.loadRequest bytes
  | none => s

def State.quitIf (s : State) (b : Bool) : State := if b then s.quitRequest else s

def State.stepIf (s : State) (b : Bool) : Host.Outcome State Fault Refusal := if b then stepRequest s else .next s

def State.tickIf (s : State) (b : Bool) : State := if b then s.tickRequest else s

/-- `s` with the inputs of an instant and the agenda that is left after it. -/
def State.setOutside (s : State) (keys : BitVec 16) (rand : Byte) (rest : List Instant) : State :=
  { s with keys := keys, randByte := rand, agenda := rest }

section
variable (s : State) (keys keys' : BitVec 16) (rand rand' : Byte) (rest rest' : List Instant)

@[simp] theorem State.setOutside_agenda : (s.setOutside keys rand rest).agenda = rest := rfl

@[simp] theorem State.setOutside_setOutside :
    (s.setOutside keys rand rest).setOutside keys' rand' rest' = s.setOutside keys' rand' rest' := rfl

@[simp] theorem State.resetIf_setOutside (b : Bool) :
    (s.setOutside keys rand rest).resetIf b = (s.resetIf b).setOutside keys rand rest := by
  cases b <;> rfl

@[simp] theorem State.loadIf_setOutside (program : Option (List Byte)) :
    (s.setOutside keys rand rest).loadIf program = (s.loadIf program).setOutside keys rand rest := by
  cases program with
  | none => rfl
  | some bytes =>
    simp only [State.loadIf, State.loadRequest]
    split <;> rfl

@[simp] theorem State.quitIf_setOutside (b : Bool) :
    (s.setOutside keys rand rest).quitIf b = (s.quitIf b).setOutside keys rand rest := by
  cases b with
  | false => rfl
  | true => cases h : s.halted <;> simp [State.quitIf, State.quitRequest, State.setOutside, State.halt, h]

@[simp] theorem State.tickIf_setOutside (b : Bool) :
    (s.setOutside keys rand rest).tickIf b = (s.tickIf b).setOutside keys rand rest := by
  cases b with
  | false => rfl
  | true => cases h : s.halted <;> simp [State.tickIf, State.tickRequest, State.setOutside, h]

end

/-! ### A transaction, by the head of the agenda -/

theorem thenDo_id (o : Host.Outcome State Fault Refusal) : thenDo (fun s => s) o = o := by cases o <;> rfl

theorem thenDo_eq_next {f : State → State} {o : Host.Outcome State Fault Refusal} {t : State}
    (h : thenDo f o = .next t) : ∃ u, o = .next u ∧ t = f u := by
  cases o with
  | next u => cases h; exact ⟨u, rfl, rfl⟩
  | fault r => cases h
  | refused r => cases h

/-- With nothing on the agenda a transaction is a lone step request (log 2). -/
theorem step_of_agenda_nil {s : State} (h : s.agenda = []) : step s = stepRequest s := by
  simp [step, cycle, h]

/-- A transaction performs the head of the agenda: reset, load, quit, step, tick, each if presented (R41). -/
theorem step_of_agenda_cons {s : State} {p : Instant} {rest : List Instant} (h : s.agenda = p :: rest) :
    step s = thenDo (·.tickIf p.tick)
      (((((s.resetIf p.reset).loadIf p.load).quitIf p.quit).setOutside p.keys p.randByte rest).stepIf p.step) := by
  have hperform : step s = p.perform { s with agenda := rest } := by simp [step, cycle, h]
  rw [hperform, ← State.quitIf_setOutside, ← State.loadIf_setOutside, ← State.resetIf_setOutside]
  rfl

section
variable {s : State} {keys : BitVec 16} {rand : Byte} {rest : List Instant}

theorem step_of_lone_reset {b : Bool} (h : s.agenda = { reset := b, keys := keys, randByte := rand } :: rest) :
    step s = .next ((s.setOutside keys rand rest).resetIf b) := by
  rw [step_of_agenda_cons h, State.resetIf_setOutside]; rfl

theorem step_of_lone_load {program : Option (List Byte)}
    (h : s.agenda = { load := program, keys := keys, randByte := rand } :: rest) :
    step s = .next ((s.setOutside keys rand rest).loadIf program) := by
  rw [step_of_agenda_cons h, State.loadIf_setOutside]; rfl

theorem step_of_lone_quit {b : Bool} (h : s.agenda = { quit := b, keys := keys, randByte := rand } :: rest) :
    step s = .next ((s.setOutside keys rand rest).quitIf b) := by
  rw [step_of_agenda_cons h, State.quitIf_setOutside]; rfl

theorem step_of_lone_step {b : Bool} (h : s.agenda = { step := b, keys := keys, randByte := rand } :: rest) :
    step s = (s.setOutside keys rand rest).stepIf b := by
  rw [step_of_agenda_cons h]; exact thenDo_id _

theorem step_of_lone_tick {b : Bool} (h : s.agenda = { tick := b, keys := keys, randByte := rand } :: rest) :
    step s = .next ((s.setOutside keys rand rest).tickIf b) := by
  rw [step_of_agenda_cons h]; rfl

end

/-- Settles O10: with one request presented the rest of the chain does nothing. -/
theorem oneRequestIsItsTransaction : Obligations.OneRequestIsItsTransaction := by
  rintro s _ keys rand rest bytes rfl
  exact ⟨step_of_lone_reset (b := true) rfl, step_of_lone_load (program := some bytes) rfl,
    step_of_lone_quit (b := true) rfl, step_of_lone_step (b := true) rfl, step_of_lone_tick (b := true) rfl,
    step_of_agenda_nil rfl⟩

/-! ### The step request -/

theorem stepRequest_of_halted {s : State} (hh : s.halted = true) : stepRequest s = .next s := by
  simp [stepRequest, hh]

theorem stepRequest_of_fetch_error {s : State} {a : Nat} (hh : s.halted = false) (hf : s.fetch = .error a) :
    stepRequest s = .next (s.halt .fetchOutOfRange none a) := by
  simp [stepRequest, hh, hf]

theorem stepRequest_of_unmapped {s : State} {w : Word} (hh : s.halted = false) (hf : s.fetch = .ok w)
    (hw : decodeWord w = none) : stepRequest s = .next (s.halt .unmappedOpcode (some w) 0) := by
  simp [stepRequest, hh, hf, hw]

theorem stepRequest_of_decoded {s : State} {w : Word} {i : Instr} (hh : s.halted = false) (hf : s.fetch = .ok w)
    (hw : decodeWord w = some i) : stepRequest s = exec i s := by
  simp [stepRequest, hh, hf, hw]

/-- The four cases of a step request (30_encoding.md R84): a halted engine; an unfetchable word; an unmapped word; an
instruction. -/
theorem stepRequest_cases (s : State) :
    s.halted = true ∨ s.halted = false ∧
      ((∃ a, s.fetch = .error a) ∨ (∃ w, s.fetch = .ok w ∧ decodeWord w = none) ∨
        ∃ w i, s.fetch = .ok w ∧ decodeWord w = some i) := by
  cases s.halted with
  | true => exact .inl rfl
  | false =>
    refine .inr ⟨rfl, ?_⟩
    cases s.fetch with
    | error a => exact .inl ⟨a, rfl⟩
    | ok w =>
      cases hw : decodeWord w with
      | none => exact .inr (.inl ⟨w, rfl, hw⟩)
      | some i => exact .inr (.inr ⟨w, i, rfl, hw⟩)

theorem stepRequest_total (s : State) : ∃ t, stepRequest s = .next t := by
  rcases stepRequest_cases s with hh | ⟨hh, ⟨a, hf⟩ | ⟨w, hf, hw⟩ | ⟨w, i, hf, hw⟩⟩
  · exact ⟨_, stepRequest_of_halted hh⟩
  · exact ⟨_, stepRequest_of_fetch_error hh hf⟩
  · exact ⟨_, stepRequest_of_unmapped hh hf hw⟩
  · rw [stepRequest_of_decoded hh hf hw]
    exact exec_total i s

theorem State.stepIf_total (s : State) (b : Bool) : ∃ t, s.stepIf b = .next t := by
  cases b with
  | false => exact ⟨s, rfl⟩
  | true => exact stepRequest_total s

/-- A step request passes an update of the agenda through. -/
theorem stepRequest_setOutside (s : State) (keys : BitVec 16) (rand : Byte) (rest rest' : List Instant) :
    stepRequest (s.setOutside keys rand rest') =
      thenDo (fun t => t.setOutside t.keys t.randByte rest') (stepRequest (s.setOutside keys rand rest)) := by
  rcases stepRequest_cases (s.setOutside keys rand rest) with
    hh | ⟨hh, ⟨_, hf⟩ | ⟨w, hf, hw⟩ | ⟨w, i, hf, hw⟩⟩
  · rw [stepRequest_of_halted hh]; exact stepRequest_of_halted hh
  · rw [stepRequest_of_fetch_error hh hf]; exact stepRequest_of_fetch_error hh hf
  · rw [stepRequest_of_unmapped hh hf hw]; exact stepRequest_of_unmapped hh hf hw
  · rw [stepRequest_of_decoded hh hf hw]
    exact (stepRequest_of_decoded (s := s.setOutside keys rand rest') hh hf hw).trans
      (exec_mapUnread (.inl rfl) (.inl rfl) (.inl rfl) (fun _ => rest') (s.setOutside keys rand rest))

/-- What a step leaves when it runs with one agenda, it leaves with another. -/
theorem State.stepIf_setOutside {s t : State} {b : Bool} {keys : BitVec 16} {rand : Byte} {rest : List Instant}
    (h : (s.setOutside keys rand rest).stepIf b = .next t) (rest' : List Instant) :
    (s.setOutside keys rand rest').stepIf b = .next (t.setOutside t.keys t.randByte rest') := by
  cases b with
  | false => cases h; rfl
  | true =>
    have hstep : stepRequest (s.setOutside keys rand rest) = .next t := h
    change stepRequest (s.setOutside keys rand rest') = _
    rw [stepRequest_setOutside s keys rand rest rest', hstep]
    rfl

theorem step_of_lone_step_setOutside {s t : State} {b : Bool} {keys keys' : BitVec 16} {rand rand' : Byte}
    {rest rest' : List Instant} (h : (s.setOutside keys rand rest).stepIf b = .next t) :
    step (s.setOutside keys' rand' ({ step := b, keys := keys, randByte := rand } :: rest')) =
      .next (t.setOutside t.keys t.randByte rest') :=
  (step_of_lone_step rfl).trans (State.stepIf_setOutside h rest')

/-! ### Several requests at one instant -/

theorem run_succ_of_next {M : Host.Core} {s t : M.State} (n : Nat) (h : M.step s = .next t) :
    M.run (n + 1) s = M.run n t := by
  rw [Host.Core.run, h]

theorem core_run_succ {s t : State} (n : Nat) (h : step s = .next t) :
    Sys2Proof.core.run (n + 1) s = Sys2Proof.core.run n t :=
  run_succ_of_next (M := Sys2Proof.core) n h

/-- Settles O11: four of the five requests pass the inputs and the agenda by, and the step does not read the agenda. -/
theorem requestsTogetherAreRequestsInOrder : Obligations.RequestsTogetherAreRequestsInOrder := by
  intro s p rest
  obtain ⟨w, hw⟩ := State.stepIf_total
    ((((s.resetIf p.reset).loadIf p.load).quitIf p.quit).setOutside p.keys p.randByte rest) p.step
  have hkept : w = w.setOutside w.keys w.randByte rest :=
    Host.Outcome.next.inj (hw.symm.trans (State.stepIf_setOutside hw rest))
  refine ⟨w.tickIf p.tick, (w.tickIf p.tick).setOutside p.keys p.randByte rest, ?_, ?_, ?_⟩
  · change step (s.setOutside s.keys s.randByte (p :: rest)) = _
    rw [step_of_agenda_cons rfl]
    simp only [State.resetIf_setOutside, State.loadIf_setOutside, State.quitIf_setOutside,
      State.setOutside_setOutside]
    rw [hw]
    rfl
  · change Sys2Proof.core.run 5 (s.setOutside s.keys s.randByte _) = _
    refine (core_run_succ 4 (step_of_lone_reset rfl)).trans ?_
    simp only [State.resetIf_setOutside, State.setOutside_setOutside]
    refine (core_run_succ 3 (step_of_lone_load rfl)).trans ?_
    simp only [State.loadIf_setOutside, State.setOutside_setOutside]
    refine (core_run_succ 2 (step_of_lone_quit rfl)).trans ?_
    simp only [State.quitIf_setOutside, State.setOutside_setOutside]
    refine (core_run_succ 1 (step_of_lone_step_setOutside hw)).trans ?_
    refine (core_run_succ 0 (step_of_lone_tick rfl)).trans ?_
    simp only [State.tickIf_setOutside, State.setOutside_setOutside]
    rfl
  · rw [hkept, State.tickIf_setOutside]
    rfl

end Sys2Proof.Machine
end

section
/-! SUPPORT. The invariant (10_state.md R31; 60_exceptions.md R201): what it says of a fetching and of a halted state,
and that each request of the host keeps it. -/

namespace Sys2Proof.Machine

/-! ### HALTED and FAULT -/

/-- A fetching engine's record is consistent exactly when it is clear (10_state.md R31). -/
theorem State.faultConsistent_of_fetching {s : State} (hh : s.halted = false) :
    s.FaultConsistent ↔ s.fault = .clear := by
  unfold State.FaultConsistent State.Reported
  constructor
  · intro h
    split at h
    · exact h.2
    all_goals simp_all
  · intro h
    rw [h]
    exact ⟨hh, rfl⟩

/-- The record of `State.halt` names the PC it leaves in place; its other fields are the cause's own. -/
theorem State.reported_halt (s : State) (c : Cause) (word : Option Word) {a : Nat} (ha : a < 2 ^ 17) :
    (s.halt c word a).Reported word.isSome a := by
  cases word <;> simpa [State.Reported] using ha

theorem State.max_index_lt (s : State) : max s.i.toNat 4096 < 2 ^ 17 := by
  have := s.i.isLt
  omega

/-- The halts of the fetch and of an unmapped word (60_exceptions.md R204) are truly reported. -/
theorem State.faultConsistent_fetchError {s : State} {a : Nat} (h : s.fetch = .error a) :
    (s.halt .fetchOutOfRange none a).FaultConsistent := by
  have hpc := s.pc.isLt
  have hout : 4096 ≤ s.pc.toNat + 1 := by
    by_contra hin
    rw [State.fetch_ok (by omega)] at h
    cases h
  have ha : a = max s.pc.toNat 4096 := by
    rw [State.fetch_error hout] at h
    cases h
    split <;> omega
  subst ha
  exact ⟨s.reported_halt _ none (by omega), hout⟩

theorem State.faultConsistent_unmapped (s : State) {w : Word} (h : decodeWord w = none) :
    (s.halt .unmappedOpcode (some w) 0).FaultConsistent :=
  ⟨s.reported_halt _ (some w) (by decide), h⟩

/-- From a fetching engine, what an execution answers is consistent: completed, the record stays clear; halted, it is
one of the four causes of R202 with its condition. -/
theorem exec_faultConsistent {i : Instr} {s t : State} (hs : s.FaultConsistent) (hh : s.halted = false)
    (h : exec i s = .next t) : t.FaultConsistent := by
  rcases exec_cases i s with ⟨u, hu, huh, huf⟩ | ⟨c, a, hu, hc⟩
  · obtain rfl : u = t := by simpa [hu] using h
    rw [State.faultConsistent_of_fetching (huh.trans hh), huf, ← State.faultConsistent_of_fetching hh]
    exact hs
  · obtain rfl : s.halt c (some (encode i)) a = t := by simpa [hu] using h
    rcases hc with ⟨rfl, rfl, hsp, rfl⟩ | ⟨rfl, rfl, hsp, nnn, rfl⟩ | ⟨rfl, rfl, hn, hr⟩ |
      ⟨rfl, rfl, hp, x, hi, hx⟩
    · exact ⟨s.reported_halt _ (some _) (by decide), hsp, rfl⟩
    · exact ⟨s.reported_halt _ (some _) (by decide), hsp, nnn, rfl⟩
    · exact ⟨s.reported_halt _ (some _) s.max_index_lt, i, rfl, hn, hr⟩
    · refine ⟨s.reported_halt _ (some _) (by decide), hp, x, ?_, hx⟩
      rcases hi with rfl | rfl
      · exact .inl rfl
      · exact .inr rfl

/-! ### The requests -/

theorem State.Inv.stepRequest {s t : State} (hs : s.Inv) (h : stepRequest s = .next t) : t.Inv := by
  obtain ⟨hm, hf⟩ := hs
  rcases stepRequest_cases s with hh | ⟨hh, ⟨a, he⟩ | ⟨w, he, hw⟩ | ⟨w, i, he, hw⟩⟩
  · rw [stepRequest_of_halted hh] at h
    cases h
    exact ⟨hm, hf⟩
  · rw [stepRequest_of_fetch_error hh he] at h
    cases h
    exact ⟨hm, State.faultConsistent_fetchError he⟩
  · rw [stepRequest_of_unmapped hh he hw] at h
    cases h
    exact ⟨hm, s.faultConsistent_unmapped hw⟩
  · rw [stepRequest_of_decoded hh he hw] at h
    exact ⟨exec_keeps_wf hm h, exec_faultConsistent hf hh h⟩

theorem State.Inv.resetRequest {s : State} (hs : s.Inv) : s.resetRequest.Inv :=
  ⟨hs.1, (State.faultConsistent_of_fetching rfl).2 rfl⟩

theorem State.Inv.loadRequest {s : State} (hs : s.Inv) (bytes : List Byte) : (s.loadRequest bytes).Inv := by
  obtain ⟨hm, hf⟩ := hs
  unfold State.loadRequest
  split
  · exact ⟨hm, hf⟩
  · exact ⟨Memory.wf_setBytes hm (by omega), hf⟩

theorem State.Inv.quitRequest {s : State} (hs : s.Inv) : s.quitRequest.Inv := by
  unfold State.quitRequest
  split
  · exact hs
  · exact ⟨hs.1, s.reported_halt .quit none (by decide)⟩

theorem State.Inv.tickRequest {s : State} (hs : s.Inv) : s.tickRequest.Inv := by
  unfold State.tickRequest
  split
  · exact hs
  · exact ⟨hs.1, hs.2⟩

/-! ### An instant's requests, each if presented -/

theorem State.Inv.resetIf {s : State} (hs : s.Inv) (b : Bool) : (s.resetIf b).Inv := by
  cases b with
  | false => exact hs
  | true => exact hs.resetRequest

theorem State.Inv.loadIf {s : State} (hs : s.Inv) (program : Option (List Byte)) : (s.loadIf program).Inv := by
  cases program with
  | none => exact hs
  | some bytes => exact hs.loadRequest bytes

theorem State.Inv.quitIf {s : State} (hs : s.Inv) (b : Bool) : (s.quitIf b).Inv := by
  cases b with
  | false => exact hs
  | true => exact hs.quitRequest

theorem State.Inv.stepIf {s t : State} {b : Bool} (hs : s.Inv) (h : s.stepIf b = .next t) : t.Inv := by
  cases b with
  | false => cases h; exact hs
  | true => exact hs.stepRequest h

theorem State.Inv.tickIf {s : State} (hs : s.Inv) (b : Bool) : (s.tickIf b).Inv := by
  cases b with
  | false => exact hs
  | true => exact hs.tickRequest

/-- The invariant does not speak of the inputs and the agenda. -/
theorem State.Inv.setOutside {s : State} (hs : s.Inv) (keys : BitVec 16) (rand : Byte) (rest : List Instant) :
    (s.setOutside keys rand rest).Inv := hs

/-- Settles O23: memory at creation is the empty list, and a fetching engine's clear record is consistent. -/
theorem invariantHoldsAtCreation : Obligations.InvariantHoldsAtCreation :=
  ⟨Memory.wf_reset, (State.faultConsistent_of_fetching rfl).2 rfl⟩

/-- Settles O24: a lone step request keeps the invariant, and so does each request of an instant in turn. -/
theorem everyTransactionKeepsTheInvariant : Obligations.EveryTransactionKeepsTheInvariant := by
  intro s t hs h
  cases ha : s.agenda with
  | nil =>
    rw [step_of_agenda_nil ha] at h
    exact hs.stepRequest h
  | cons p rest =>
    rw [step_of_agenda_cons ha] at h
    obtain ⟨u, hu, rfl⟩ := thenDo_eq_next h
    have hbefore := ((hs.resetIf p.reset).loadIf p.load).quitIf p.quit
    exact ((hbefore.setOutside p.keys p.randByte rest).stepIf hu).tickIf p.tick

end Sys2Proof.Machine
end

section
/-! SUPPORT. The fetch (20_memory.md R55; 30_encoding.md R84): the word it reads, the word placed where it reads, and
the steps that find no instruction. -/

namespace Sys2Proof

/-- Decoding the word of an instruction gives that instruction: each family reads its fields back from the word packed
with them (30_encoding.md R71, R88). -/
theorem decodeWord_encode (i : Instr) : decodeWord (encode i) = some i := by
  cases i with
  | cls | ret => decide
  | jp | call | ldI | jpV0 => simp [encode, decodeWord, fieldOp_packA, fieldNNN_packA]
  | seImm | sneImm | ldImm | addImm | rnd =>
    simp [encode, decodeWord, fieldOp_packXNN, fieldX_packXNN, fieldNN_packXNN]
  | skp | sknp =>
    simp [encode, decodeWord, fieldOp_packXNN, decodeFamilyE, fieldX_packXNN, fieldNN_packXNN]
  | ldVxDt | ldVxK | ldDtVx | ldStVx | addI | ldF | ldB | storeRegs | loadRegs =>
    simp [encode, decodeWord, fieldOp_packXNN, decodeFamilyF, fieldX_packXNN, fieldNN_packXNN]
  | seReg | sneReg =>
    simp [encode, decodeWord, fieldOp_packXYN, decodeLowNibbleZero, fieldX_packXYN, fieldY_packXYN, fieldN_packXYN]
  | drw => simp [encode, decodeWord, fieldOp_packXYN, fieldX_packXYN, fieldY_packXYN, fieldN_packXYN]
  | ldReg | orReg | andReg | xorReg | addReg | sub | shr | subn | shl =>
    simp [encode, decodeWord, fieldOp_packXYN, decodeFamily8, fieldX_packXYN, fieldY_packXYN, fieldN_packXYN]

theorem tableWord_toNat (w : Word) : tableWord 16 w.toNat = w := by
  rw [tableWord, Nat.mod_eq_of_lt w.isLt, BitVec.ofNat_toNat, BitVec.setWidth_eq]

namespace Machine

theorem wordOfBytes_toNat_div (hi lo : Byte) : (wordOfBytes hi lo).toNat / 256 = hi.toNat := by
  have := lo.isLt
  rw [wordOfBytes_toNat]; omega

theorem wordOfBytes_toNat_mod (hi lo : Byte) : (wordOfBytes hi lo).toNat % 256 = lo.toNat := by
  have := lo.isLt
  rw [wordOfBytes_toNat]; omega

theorem State.fetch_nextWord {s : State} (h : s.pc.toNat + 1 < 4096) : s.fetch = .ok s.nextWord := State.fetch_ok h

/-- The address a faulting fetch reports, as FAULT records it (60_exceptions.md R201). -/
theorem State.fetch_error_max {s : State} (h : 4096 ≤ s.pc.toNat + 1) :
    s.fetch = .error (max s.pc.toNat 4096) := by
  rw [State.fetch_error h]
  congr 1
  split <;> omega

/-- The word placed at PC is the word a fetch there reads (log 5). -/
theorem State.nextWord_withFetchWord (s : State) (nbits n : Nat) :
    (s.withFetchWord nbits n).nextWord = tableWord nbits n := by
  have hbytes : (s.withFetchWord nbits n).nextWord =
      wordOfBytes ((tableWord nbits n).extractLsb' 8 8) ((tableWord nbits n).extractLsb' 0 8) := by
    simp [State.nextWord, State.withFetchWord, Memory.get_setBytes, bytesOfWord]
  rw [hbytes, wordOfBytes_bytesOfWord]

/-- Entry into the halted state writes HALTED and FAULT alone (60_exceptions.md R203). -/
theorem State.haltedFrom_halt (s : State) (c : Cause) (word : Option Word) (a : Nat) :
    HaltedFrom s (s.halt c word a)
      { cause := c, pc := s.pc, word := word.getD 0, wordValid := word.isSome, addr := BitVec.ofNat 17 a } := rfl

/-- Settles O13: the fetch reads the placed word back, and decoding undoes the encoding. -/
theorem placedWordRunsNext : Obligations.PlacedWordRunsNext := by
  intro s i hpc
  have hfetch : (s.withFetchWord 16 (encode i).toNat).fetch = .ok (encode i) := by
    have hin : (s.withFetchWord 16 (encode i).toNat).pc.toNat + 1 < 4096 := hpc
    rw [State.fetch_nextWord hin, State.nextWord_withFetchWord, tableWord_toNat]
  rw [step_of_agenda_nil rfl]
  exact stepRequest_of_decoded rfl hfetch (decodeWord_encode i)

/-- Settles O14: the three positions of PC, below, at and above the last byte of memory. -/
theorem fetchIsBigEndianAndRangeChecked : Obligations.FetchIsBigEndianAndRangeChecked := by
  intro s
  refine ⟨fun hin => ⟨s.nextWord, State.fetch_nextWord hin, ?_⟩, fun hlast => ?_, fun hout => ?_⟩
  · rw [State.nextWord, wordOfBytes_toNat, Nat.mul_comm]
  · rw [State.fetch_error_max (by omega), Nat.max_eq_right (by omega)]
  · rw [State.fetch_error_max (by omega), Nat.max_eq_left hout]

/-- Settles O15: the step request's two halting cases, with the fetch's address in its reported form. -/
theorem unfetchableAndUnmappedStepsHalt : Obligations.UnfetchableAndUnmappedStepsHalt := by
  intro s hagenda hfetching
  rw [step_of_agenda_nil hagenda]
  refine ⟨fun hout => ?_, fun hin hunmapped => ?_⟩
  · exact ⟨_, stepRequest_of_fetch_error hfetching (State.fetch_error_max hout), s.haltedFrom_halt _ none _⟩
  · exact ⟨_, stepRequest_of_unmapped hfetching (State.fetch_nextWord hin) hunmapped, s.haltedFrom_halt _ (some _) 0⟩

end Machine

end Sys2Proof
end

section
/-! SUPPORT. Executions that halt, among them an access through I that fails its range check (42_index_memory.md R150;
60_exceptions.md R203), and the memory a block store leaves, for the fetch as for data (20_memory.md R62). -/

namespace Sys2Proof.Machine

/-- Settles O18: a fetching engine is halted only by the second case of `exec_cases`, and of its four causes
DATA_OUT_OF_RANGE alone has an address. -/
theorem fatalExecutionDiscardsEveryEffect : Obligations.FatalExecutionDiscardsEveryEffect := by
  intro i s t hfetching h hhalted
  rcases exec_cases i s with ⟨u, hu, hkept, -⟩ | ⟨c, a, hu, hcause⟩
  · obtain rfl : u = t := by simpa [hu] using h
    simp [hkept, hfetching] at hhalted
  · obtain rfl : s.halt c (some (encode i)) a = t := by simpa [hu] using h
    rcases hcause with ⟨rfl, rfl, -⟩ | ⟨rfl, rfl, -⟩ | ⟨rfl, rfl, -⟩ | ⟨rfl, rfl, -⟩
    all_goals exact ⟨s.haltedFrom_halt _ (some _) _, by simp⟩

theorem State.rangeOk_eq_false {s : State} {m : Nat} : s.rangeOk m = false ↔ 4096 ≤ s.i.toNat + (m - 1) := by
  rw [← Bool.not_eq_true, State.rangeOk_last, Nat.not_lt]

/-- Executing an instruction whose range check fails raises DATA_OUT_OF_RANGE; DRW with n = 0 has no check
(42_index_memory.md R150; 43_display.md R172). -/
theorem exec_of_not_rangeOk {i : Instr} {s : State} (hn : 1 ≤ dataBytes i) (hr : s.rangeOk (dataBytes i) = false) :
    exec i s = raiseFatal .dataOutOfRange i s.firstOutOfRange s := by
  cases i with
  | ldB | storeRegs | loadRegs =>
    simp only [dataBytes] at hr
    simp [exec, execLdB, execStoreRegs, execLoadRegs, hr]
  | drw x y n =>
    simp only [dataBytes] at hn hr
    have hn0 : n.val ≠ 0 := Nat.ne_of_gt hn
    simp [exec, execDrw, hn0, hr]
  | _ => cases hn

/-- Settles O48: the range check fails exactly when the last byte is out of range, and its halt is all that happens. -/
theorem dataOutOfRangeHalts : Obligations.DataOutOfRangeHalts := by
  intro i s hn hout
  have hr : s.rangeOk (dataBytes i) = false := State.rangeOk_eq_false.2 (by omega)
  exact ⟨_, exec_of_not_rangeOk hn hr, s.haltedFrom_halt _ (some _) _⟩

/-- A block store that fits (42_index_memory.md R155). -/
theorem exec_storeRegs_of_inRange {x : Reg} {s : State} (h : s.i.toNat + x.val < 4096) :
    exec (.storeRegs x) s = .next (s.setMem (s.mem.setBytes (s.ea 0) (s.regsUpTo x))).advance := by
  have hr : s.rangeOk (x.val + 1) = true := State.rangeOk_last.2 h
  simp [exec, execStoreRegs, hr]

/-- Inside the block, memory holds the registers in order. -/
theorem State.get_setBytes_regsUpTo_of_le (s : State) {x k : Reg} (h : k.val ≤ x.val) :
    (s.mem.setBytes (s.ea 0) (s.regsUpTo x)).get (s.ea k.val) = s.reg k := by
  rw [Memory.get_setBytes, if_pos (by simp [State.ea]; omega)]
  simp only [State.ea, Nat.add_zero, Nat.add_sub_cancel_left]
  exact s.getD_regsUpTo k h

/-- Outside the block, memory holds what it held. -/
theorem State.get_setBytes_regsUpTo_of_outside (s : State) {x : Reg} {a : Nat}
    (h : a < s.ea 0 ∨ s.ea (x.val + 1) ≤ a) : (s.mem.setBytes (s.ea 0) (s.regsUpTo x)).get a = s.mem.get a := by
  rw [Memory.get_setBytes, if_neg]
  simp only [State.length_regsUpTo, State.ea] at h ⊢
  omega

/-- The fetch after a completed store reads the memory stored, at PC + 2 (20_memory.md R62). -/
theorem State.fetch_advance_setMem {s : State} (h : s.pc.toNat + 3 < 4096) (m : Memory) :
    (s.setMem m).advance.fetch = .ok (wordOfBytes (m.get (s.pc.toNat + 2)) (m.get (s.pc.toNat + 3))) := by
  have hpc : (s.setMem m).advance.pc.toNat = s.pc.toNat + 2 := by
    rw [State.advance_pc, State.setMem_pc]
    bv_omega
  rw [State.fetch_ok (by omega), hpc, State.advance_mem, State.setMem_mem]

/-- Settles O50: the fetch at PC + 2 reads the two bytes there of the memory the block store leaves. -/
theorem storedBytesAreFetchedNext : Obligations.StoredBytesAreFetchedNext := by
  intro x s hblock hnext
  refine ⟨_, _, exec_storeRegs_of_inRange hblock, State.fetch_advance_setMem hnext _, fun k hk ha => ?_,
    fun k hk ha => ?_, fun ha => ?_, fun ha => ?_⟩
  · rw [wordOfBytes_toNat_div, ← ha, s.get_setBytes_regsUpTo_of_le hk]
  · rw [wordOfBytes_toNat_mod, ← ha, s.get_setBytes_regsUpTo_of_le hk]
  · rw [wordOfBytes_toNat_div, s.get_setBytes_regsUpTo_of_outside ha]
  · rw [wordOfBytes_toNat_mod, s.get_setBytes_regsUpTo_of_outside ha]

end Sys2Proof.Machine
end

section
/-! SUPPORT. The decoder against the encoder and against the opcode map (30_encoding.md R71, R76, R83): a decoded
instruction's word is the word decoded, and a row admits exactly the words that decode to its instructions. -/

namespace Sys2Proof

/-! ### Words as bytes and as table numbers -/

theorem decodeBytes_bytesOfWord_append {w : Word} {i : Instr} (h : decodeWord w = some i) (rest : List Byte) :
    decodeBytes (bytesOfWord w ++ rest) = .ok (i, rest) := by
  simp [bytesOfWord, decodeBytes, Machine.wordOfBytes_bytesOfWord, h]

theorem decodeTableWord_of_decodeWord {w : Word} {i : Instr} (h : decodeWord w = some i) :
    decodeTableWord 16 w.toNat = some i := by
  have hbytes : decodeBytes (bytesOfWord w) = .ok (i, []) := by
    simpa using decodeBytes_bytesOfWord_append h []
  simp [decodeTableWord, tableWord_toNat, hbytes]

/-- Settles O2: the word decodes to its instruction, and its bytes and its table number give that word back. -/
theorem decodeOfEncodeGivesInstruction : Obligations.DecodeOfEncodeGivesInstruction := fun i rest =>
  ⟨decodeWord_encode i, decodeBytes_bytesOfWord_append (decodeWord_encode i) rest,
    decodeTableWord_of_decodeWord (decodeWord_encode i)⟩

/-- Settles O1: the decoder evaluated on each word. -/
theorem wordsFromPatternsDecode : Obligations.WordsFromPatternsDecode := by
  unfold Obligations.WordsFromPatternsDecode
  decide

/-! ### A word packed again from its own fields (30_encoding.md R71, R72) -/

theorem packA_fields {w : Word} {op : Nat} (hop : fieldOp w = op) : packA op (fieldNNN w) = w := by
  have hlt := w.isLt
  rw [fieldOp_eq] at hop
  apply BitVec.eq_of_toNat_eq
  rw [packA_toNat (by omega), fieldNNN_toNat]
  omega

theorem packXNN_fields {w : Word} {op : Nat} {nn : Byte} (hop : fieldOp w = op)
    (hnn : (fieldNN w).toNat = nn.toNat) : packXNN op (fieldX w) nn = w := by
  have hlt := w.isLt
  rw [fieldOp_eq] at hop
  rw [fieldNN_toNat] at hnn
  apply BitVec.eq_of_toNat_eq
  rw [packXNN_toNat (by omega), fieldX_val]
  omega

theorem packXYN_fields {w : Word} {op : Nat} {n : Fin 16} (hop : fieldOp w = op) (hn : (fieldN w).val = n.val) :
    packXYN op (fieldX w) (fieldY w) n = w := by
  have hlt := w.isLt
  rw [fieldOp_eq] at hop
  rw [fieldN_val] at hn
  apply BitVec.eq_of_toNat_eq
  rw [packXYN_toNat (by omega), fieldX_val, fieldY_val]
  omega

/-! ### What the decoder answers encodes to the word decoded -/

theorem encode_of_decodeFamily0 {w : Word} {i : Instr} (h : decodeFamily0 w = some i) : encode i = w := by
  unfold decodeFamily0 at h
  split at h
  · next hw => cases h; exact hw.symm
  · split at h
    · next hw => cases h; exact hw.symm
    · cases h

theorem encode_of_decodeFamily8 {w : Word} {i : Instr} (hop : fieldOp w = 0x8) (h : decodeFamily8 w = some i) :
    encode i = w := by
  unfold decodeFamily8 at h
  split at h <;> cases h
  all_goals next hn => exact packXYN_fields hop hn

theorem encode_of_decodeFamilyE {w : Word} {i : Instr} (hop : fieldOp w = 0xE) (h : decodeFamilyE w = some i) :
    encode i = w := by
  unfold decodeFamilyE at h
  split at h <;> cases h
  all_goals next hnn => exact packXNN_fields hop hnn

theorem encode_of_decodeFamilyF {w : Word} {i : Instr} (hop : fieldOp w = 0xF) (h : decodeFamilyF w = some i) :
    encode i = w := by
  unfold decodeFamilyF at h
  split at h <;> cases h
  all_goals next hnn => exact packXNN_fields hop hnn

theorem eq_of_decodeLowNibbleZero {w : Word} {i j : Instr} (h : decodeLowNibbleZero w j = some i) :
    j = i ∧ (fieldN w).val = 0 := by
  unfold decodeLowNibbleZero at h
  split at h
  · next hn => cases h; exact ⟨rfl, hn⟩
  · cases h

/-- The decoder loses nothing of the word (30_encoding.md R83): by the first nibble, each family in turn (the
decoder's case `h_k` is the nibble k - 1). -/
theorem encode_of_decodeWord {w : Word} {i : Instr} (h : decodeWord w = some i) : encode i = w := by
  unfold decodeWord at h
  split at h <;> rename_i hop
  case h_1 => exact encode_of_decodeFamily0 h
  case h_6 | h_10 =>
    obtain ⟨rfl, hn⟩ := eq_of_decodeLowNibbleZero h
    exact packXYN_fields hop hn
  case h_9 => exact encode_of_decodeFamily8 hop h
  case h_15 => exact encode_of_decodeFamilyE hop h
  case h_16 => exact encode_of_decodeFamilyF hop h
  case h_2 | h_3 | h_11 | h_12 => cases h; exact packA_fields hop
  case h_4 | h_5 | h_7 | h_8 | h_13 => cases h; exact packXNN_fields hop rfl
  case h_14 => cases h; exact packXYN_fields hop rfl
  case h_17 => cases h

/-! ### The rows of the opcode map (30_encoding.md R76) -/

/-- Each instruction's word is admitted by its own row: by the mask of the row. -/
theorem row_admits_encode (i : Instr) : i.row.admits (encode i) = true := by
  cases i with
  | cls | ret => decide
  | jp | call | ldI | jpV0 => exact Laws.OwnRow.admits_A (by decide) _ rfl
  | seImm | sneImm | ldImm | addImm | rnd => exact Laws.OwnRow.admits_XNN (by decide) _ _ rfl
  | drw => exact Laws.OwnRow.admits_XYN (by decide) _ _ _ rfl
  | seReg | sneReg | ldReg | orReg | andReg | xorReg | addReg | sub | shr | subn | shl =>
    exact Laws.OwnRow.admits_XY (by decide) _ _ _ rfl
  | skp | sknp | ldVxDt | ldDtVx | ldStVx | addI | ldF | ldB | storeRegs | loadRegs | ldVxK =>
    exact Laws.OwnRow.admits_X (by decide) _ _ rfl

section
variable {w p : Word}

theorem eq_of_admits_FFFF (h : (⟨0xFFFF, p⟩ : OpcodeRow).admits w = true) : w = p := by
  have hand : w &&& BitVec.allOnes 16 = p := by simpa [OpcodeRow.admits] using h
  rwa [BitVec.and_allOnes] at hand

theorem fieldOp_of_admits_F000 (h : (⟨0xF000#16, p⟩ : OpcodeRow).admits w = true) : fieldOp w = p.toNat / 4096 := by
  rw [OpcodeRow.admits_iff, and_F000_toNat] at h
  dsimp only at h
  rw [fieldOp_eq]
  omega

theorem fields_of_admits_F00F (h : (⟨0xF00F#16, p⟩ : OpcodeRow).admits w = true) :
    fieldOp w = p.toNat / 4096 ∧ (fieldN w).val = p.toNat % 16 := by
  rw [OpcodeRow.admits_iff, and_F00F_toNat] at h
  dsimp only at h
  rw [fieldOp_eq, fieldN_val]
  omega

theorem fields_of_admits_F0FF (h : (⟨0xF0FF#16, p⟩ : OpcodeRow).admits w = true) :
    fieldOp w = p.toNat / 4096 ∧ (fieldNN w).toNat = p.toNat % 256 := by
  rw [OpcodeRow.admits_iff, and_F0FF_toNat] at h
  dsimp only at h
  rw [fieldOp_eq, fieldNN_toNat]
  omega

end

/-- A word that an instruction's row admits decodes to an instruction of that row: the fixed bits of the row are the
ones the decoder dispatches on (30_encoding.md R75). -/
theorem decodeWord_of_row_admits {i : Instr} {w : Word} (h : i.row.admits w = true) :
    ∃ j, decodeWord w = some j ∧ j.row = i.row := by
  cases i with
  | cls | ret =>
    obtain rfl := eq_of_admits_FFFF h
    exact ⟨_, rfl, rfl⟩
  | jp | call | seImm | sneImm | ldImm | addImm | ldI | jpV0 | rnd | drw =>
    have hop := fieldOp_of_admits_F000 h
    simp [decodeWord, hop, Instr.row]
  | seReg | sneReg =>
    obtain ⟨hop, hn⟩ := fields_of_admits_F00F h
    simp [decodeWord, hop, decodeLowNibbleZero, hn, Instr.row]
  | ldReg | orReg | andReg | xorReg | addReg | sub | shr | subn | shl =>
    obtain ⟨hop, hn⟩ := fields_of_admits_F00F h
    simp [decodeWord, hop, decodeFamily8, hn, Instr.row]
  | skp | sknp =>
    obtain ⟨hop, hnn⟩ := fields_of_admits_F0FF h
    simp [decodeWord, hop, decodeFamilyE, hnn, Instr.row]
  | ldVxDt | ldDtVx | ldStVx | addI | ldF | ldB | storeRegs | loadRegs | ldVxK =>
    obtain ⟨hop, hnn⟩ := fields_of_admits_F0FF h
    simp [decodeWord, hop, decodeFamilyF, hnn, Instr.row]

/-- An instruction of each row of the opcode map, in the map's order. -/
def rowRepresentatives : List Instr :=
  [.cls, .ret, .jp 0, .call 0, .seImm 0 0, .sneImm 0 0, .seReg 0 0, .sneReg 0 0, .ldImm 0 0, .addImm 0 0,
    .ldReg 0 0, .orReg 0 0, .andReg 0 0, .xorReg 0 0, .addReg 0 0, .sub 0 0, .shr 0 0, .subn 0 0, .shl 0 0,
    .ldI 0, .jpV0 0, .rnd 0 0, .drw 0 0 0, .skp 0, .sknp 0, .ldVxDt 0, .ldDtVx 0, .ldStVx 0, .addI 0, .ldF 0,
    .ldB 0, .storeRegs 0, .loadRegs 0, .ldVxK 0]

/-- Every row of the opcode map is some instruction's row. -/
theorem opcodeMap_eq_map_row : opcodeMap = rowRepresentatives.map Instr.row := rfl

theorem decodeWord_of_admits {r : OpcodeRow} {w : Word} (hr : r ∈ opcodeMap) (h : r.admits w = true) :
    ∃ i, decodeWord w = some i ∧ i.row = r := by
  rw [opcodeMap_eq_map_row, List.mem_map] at hr
  obtain ⟨i, -, rfl⟩ := hr
  exact decodeWord_of_row_admits h

/-- Settles O3: encoding and decoding undo each other, and a row that admits the word decodes it to an instruction of
that row. -/
theorem everyWordIsOneInstructionOrUnmapped : Obligations.EveryWordIsOneInstructionOrUnmapped := by
  intro w
  cases hw : decodeWord w with
  | some i =>
    have henc : encode i = w := encode_of_decodeWord hw
    refine .inl ⟨i, rfl, henc, fun j hj => ?_, henc ▸ row_admits_encode i, fun r hr ha => ?_⟩
    · rw [← hj, decodeWord_encode] at hw
      exact Option.some.inj hw
    · obtain ⟨j, hj, rfl⟩ := decodeWord_of_admits hr ha
      rw [hw] at hj
      cases hj
      rfl
  | none =>
    refine .inr ⟨rfl, fun i hi => ?_, fun r hr => ?_⟩
    · rw [← hi, decodeWord_encode] at hw
      cases hw
    · by_contra ha
      obtain ⟨i, hi, -⟩ := decodeWord_of_admits hr (Bool.eq_true_of_not_eq_false ha)
      rw [hw] at hi
      cases hi

/-! ### Families 8, E and F (30_encoding.md R79 to R81) -/

/-- Family 8 is a table with sixteen entries, one for each low nibble (30_encoding.md R79). -/
theorem decodeFamily8_packXYN (x y : Reg) (n : Fin 16) :
    decodeFamily8 (packXYN 0x8 x y n) =
      (([some (.ldReg x y), some (.orReg x y), some (.andReg x y), some (.xorReg x y), some (.addReg x y),
        some (.sub x y), some (.shr x y), some (.subn x y), none, none, none, none, none, none, some (.shl x y),
        none] : List (Option Instr)).getD n.val none) := by
  simp only [decodeFamily8, fieldX_packXYN, fieldY_packXYN, fieldN_packXYN, Nat.reduceLT]
  fin_cases n <;> rfl

theorem decodeFamilyE_packXNN (x : Reg) (nn : Byte) :
    decodeFamilyE (packXNN 0xE x nn) =
      if nn = 0x9E then some (.skp x) else if nn = 0xA1 then some (.sknp x) else none := by
  simp only [decodeFamilyE, fieldX_packXNN, fieldNN_packXNN, Nat.reduceLT, ← BitVec.toNat_inj]
  split <;> simp_all

theorem decodeFamilyF_packXNN (x : Reg) (nn : Byte) :
    decodeFamilyF (packXNN 0xF x nn) =
      (if nn = 0x07 then some (.ldVxDt x) else if nn = 0x0A then some (.ldVxK x)
      else if nn = 0x15 then some (.ldDtVx x) else if nn = 0x18 then some (.ldStVx x)
      else if nn = 0x1E then some (.addI x) else if nn = 0x29 then some (.ldF x)
      else if nn = 0x33 then some (.ldB x) else if nn = 0x55 then some (.storeRegs x)
      else if nn = 0x65 then some (.loadRegs x) else none) := by
  simp only [decodeFamilyF, fieldX_packXNN, fieldNN_packXNN, Nat.reduceLT, ← BitVec.toNat_inj]
  split <;> simp_all

/-- Settles O4: the word is packed from the family's nibble and the fields, and the decoder goes by that nibble. -/
theorem familiesEightEAndFSelectByTrailingBits : Obligations.FamiliesEightEAndFSelectByTrailingBits := by
  intro x y n nn
  have h8 : BitVec.ofNat 16 (0x8000 + 256 * x.val + 16 * y.val + n.val) = packXYN 0x8 x y n := by
    rw [packXYN]; congr 1; omega
  have hE : BitVec.ofNat 16 (0xE000 + 256 * x.val + nn.toNat) = packXNN 0xE x nn := by
    rw [packXNN]; congr 1; omega
  have hF : BitVec.ofNat 16 (0xF000 + 256 * x.val + nn.toNat) = packXNN 0xF x nn := by
    rw [packXNN]; congr 1; omega
  rw [h8, hE, hF, ← decodeFamily8_packXYN, ← decodeFamilyE_packXNN, ← decodeFamilyF_packXNN]
  simp [decodeWord, fieldOp_packXYN, fieldOp_packXNN]

end Sys2Proof
end

section
/-! SUPPORT. What a transaction leaves alone outside the engine (00_scope.md R8; 10_state.md R40; log 2 to log 4): each
part of it passes the agenda and the parameters on, and takes no free input back. -/

namespace Sys2Proof.Machine

/-- What the host and the configuration hold stays: the agenda and the parameters are those of `s`, and no free input
that was taken becomes free again. -/
def SameOutside (s t : State) : Prop := t.agenda = s.agenda ∧ t.params = s.params ∧ s.samples ≤ t.samples

theorem SameOutside.refl (s : State) : SameOutside s s := ⟨rfl, rfl, le_rfl⟩

theorem SameOutside.trans {s t u : State} (hst : SameOutside s t) (htu : SameOutside t u) : SameOutside s u := by
  obtain ⟨ha, hp, hs⟩ := hst
  obtain ⟨ha', hp', hs'⟩ := htu
  exact ⟨ha'.trans ha, hp'.trans hp, hs.trans hs'⟩

theorem Completes.sameOutside {i : Instr} {s t : State} (h : Completes s i t) : SameOutside s t := by
  cases h <;> simp [SameOutside]

theorem State.sameOutside_halt (s : State) (c : Cause) (word : Option Word) (a : Nat) :
    SameOutside s (s.halt c word a) := ⟨rfl, rfl, le_rfl⟩

theorem sameOutside_of_exec {i : Instr} {s t : State} (h : exec i s = .next t) : SameOutside s t := by
  rcases exec_completes_or_halts h with hc | ⟨c, a, rfl⟩
  · exact hc.sameOutside
  · exact s.sameOutside_halt c _ a

theorem sameOutside_of_stepRequest {s t : State} (h : stepRequest s = .next t) : SameOutside s t := by
  rcases stepRequest_cases s with hh | ⟨hh, ⟨a, hf⟩ | ⟨w, hf, hw⟩ | ⟨w, i, hf, hw⟩⟩
  · rw [stepRequest_of_halted hh] at h
    cases h
    exact .refl s
  · rw [stepRequest_of_fetch_error hh hf] at h
    cases h
    exact s.sameOutside_halt _ _ a
  · rw [stepRequest_of_unmapped hh hf hw] at h
    cases h
    exact s.sameOutside_halt _ _ 0
  · rw [stepRequest_of_decoded hh hf hw] at h
    exact sameOutside_of_exec h

/-! ### An instant's requests, each if presented -/

theorem State.sameOutside_resetIf (s : State) (b : Bool) : SameOutside s (s.resetIf b) := by
  cases b <;> exact ⟨rfl, rfl, le_rfl⟩

theorem State.sameOutside_loadIf (s : State) (program : Option (List Byte)) : SameOutside s (s.loadIf program) := by
  cases program with
  | none => exact .refl s
  | some bytes =>
    change SameOutside s (s.loadRequest bytes)
    unfold State.loadRequest
    split <;> exact ⟨rfl, rfl, le_rfl⟩

theorem State.sameOutside_quitIf (s : State) (b : Bool) : SameOutside s (s.quitIf b) := by
  cases b with
  | false => exact .refl s
  | true =>
    change SameOutside s s.quitRequest
    unfold State.quitRequest
    split <;> exact ⟨rfl, rfl, le_rfl⟩

theorem State.sameOutside_tickIf (s : State) (b : Bool) : SameOutside s (s.tickIf b) := by
  cases b with
  | false => exact .refl s
  | true =>
    change SameOutside s s.tickRequest
    unfold State.tickRequest
    split <;> exact ⟨rfl, rfl, le_rfl⟩

theorem State.sameOutside_of_stepIf {s t : State} {b : Bool} (h : s.stepIf b = .next t) : SameOutside s t := by
  cases b with
  | false => cases h; exact .refl s
  | true => exact sameOutside_of_stepRequest h

/-- Settles O22: a lone step request answers a next state, and so does an instant, of whose requests the step alone
could stop. -/
theorem everyTransactionAnswersANextState : Obligations.EveryTransactionAnswersANextState := by
  intro s
  cases ha : s.agenda with
  | nil =>
    obtain ⟨t, ht⟩ := stepRequest_total s
    obtain ⟨hagenda, hparams, hsamples⟩ := sameOutside_of_stepRequest ht
    exact ⟨t, (step_of_agenda_nil ha).trans ht, hagenda.trans ha, hparams, hsamples⟩
  | cons p rest =>
    have hbefore : SameOutside s (((s.resetIf p.reset).loadIf p.load).quitIf p.quit) :=
      (s.sameOutside_resetIf _).trans ((State.sameOutside_loadIf _ _).trans (State.sameOutside_quitIf _ _))
    obtain ⟨t, ht⟩ := State.stepIf_total
      ((((s.resetIf p.reset).loadIf p.load).quitIf p.quit).setOutside p.keys p.randByte rest) p.step
    obtain ⟨hagenda, hparams, hsamples⟩ :=
      (State.sameOutside_of_stepIf ht).trans (t.sameOutside_tickIf p.tick)
    obtain ⟨-, hparams', hsamples'⟩ := hbefore
    refine ⟨t.tickIf p.tick, ?_, hagenda, hparams.trans hparams', hsamples'.trans hsamples⟩
    rw [step_of_agenda_cons ha, ht]
    rfl

end Sys2Proof.Machine
end

section
/-! SUPPORT. The step cycle (30_encoding.md R84, R87): which execution a transaction with a step request is, and where
each completed execution leaves PC. -/

namespace Sys2Proof.Machine

/-! ### The step among an instant's requests -/

theorem step_eq_perform {s : State} {p : Instant} {rest : List Instant} (h : s.agenda = p :: rest) :
    step s = p.perform { s with agenda := rest } := by
  simp [step, cycle, h]

theorem Instant.perform_of_step {p : Instant} (h : p.step = true) (s : State) :
    p.perform s = thenDo (fun t => if p.tick then t.tickRequest else t) (stepRequest (p.beforeStep s)) := by
  simp [Instant.perform, h]

/-- A step of a fetching engine runs what its word decodes to (30_encoding.md R84, R85). -/
theorem stepRequest_of_nextWord {s : State} {i : Instr} (hh : s.halted = false) (hin : s.pc.toNat + 1 < 4096)
    (hi : decodeWord s.nextWord = some i) : stepRequest s = exec i s :=
  stepRequest_of_decoded hh (State.fetch_nextWord hin) hi

/-- Settles O12: both transactions come down to one step request, in the state before the step. -/
theorem stepRunsTheDecodedInstruction : Obligations.StepRunsTheDecodedInstruction := by
  refine fun s i => ⟨fun ha hh hin hi => ?_, fun p rest u ha hp hu hh hin hi => ?_⟩
  · rw [step_of_agenda_nil ha, stepRequest_of_nextWord hh hin hi]
  · subst hu
    rw [step_eq_perform ha, Instant.perform_of_step hp, stepRequest_of_nextWord hh hin hi]

/-! ### PC after each kind of completion, as a number -/

theorem addr12_toNat (nnn : BitVec 12) : (addr12 nnn).toNat = nnn.toNat := by
  have := nnn.isLt
  rw [addr12, BitVec.toNat_setWidth]
  omega

/-- The target of JP V0 fits in 16 bits, so nothing wraps (40_control_flow.md R110). -/
theorem addr12_add_toWord_toNat (nnn : BitVec 12) (b : Byte) :
    (addr12 nnn + b.toWord).toNat = nnn.toNat + b.toNat := by
  have := nnn.isLt
  have := b.isLt
  rw [BitVec.toNat_add, addr12_toNat, Byte.toWord, BitVec.toNat_setWidth]
  omega

theorem State.advance_pc_toNat (s : State) (drew : Bool) : (s.advance drew).pc.toNat = (s.pc.toNat + 2) % 65536 := by
  rw [State.advance_pc, BitVec.toNat_add]
  rfl

theorem State.skipIf_pc_toNat (s : State) (taken : Bool) :
    (s.skipIf taken).pc.toNat = (s.pc.toNat + if taken then 4 else 2) % 65536 := by
  cases taken <;> rw [State.skipIf_pc] <;> exact BitVec.toNat_add ..

theorem State.skipIf_not_pc_toNat (s : State) (stays : Bool) :
    (s.skipIf !stays).pc.toNat = (s.pc.toNat + if stays then 2 else 4) % 65536 := by
  rw [State.skipIf_pc_toNat]
  cases stays <;> rfl

/-- A key query that does not raise reads the low four bits of the key number (44_keys_timers.md R180; D15). -/
theorem State.eq_of_keyOf_eq_some {s : State} {v : Byte} {pressed : Bool} (h : s.keyOf v = some pressed) :
    pressed = s.keys.getLsbD (v.toNat % 16) := by
  by_cases hv : v.toNat < 16
  · rw [State.keyOf_low hv] at h
    rw [Nat.mod_eq_of_lt hv]
    exact (Option.some.inj h).symm
  · cases hp : s.params.keyIndexOverflow with
    | fatal => rw [State.keyOf_fatal hp hv] at h; cases h
    | mask => rw [State.keyOf_mask hp] at h; exact (Option.some.inj h).symm

/-! ### The executions that can halt, when they complete -/

section
variable {s t : State} (hcompleted : t.halted = false)
include hcompleted

theorem completes_of_exec {i : Instr} (h : exec i s = .next t) : Completes s i t := by
  rcases exec_completes_or_halts h with hc | ⟨c, a, rfl⟩
  · exact hc
  · cases hcompleted

theorem exec_ret_pc (h : exec .ret s = .next t) : s.stack[s.sp.val - 1]? = some t.pc := by
  by_cases hsp : s.sp.val = 0
  · simp only [exec, execRet, State.pop_empty hsp] at h
    cases h; cases hcompleted
  · obtain ⟨target, u, hpop, htop, -, -⟩ := State.pop_spec hsp
    simp only [exec, execRet, hpop] at h
    cases h
    exact htop

theorem exec_call_pc {nnn : BitVec 12} (h : exec (.call nnn) s = .next t) : t.pc = addr12 nnn := by
  simp only [exec, execCall] at h
  split at h <;> cases h
  · cases hcompleted
  · rfl

theorem exec_skp_pc {x : Reg} (h : exec (.skp x) s = .next t) :
    t.pc = (s.skipIf (s.keys.getLsbD ((s.reg x).toNat % 16))).pc := by
  simp only [exec, execSkp] at h
  split at h <;> cases h
  · cases hcompleted
  · next hkey => rw [State.eq_of_keyOf_eq_some hkey]; rfl

theorem exec_sknp_pc {x : Reg} (h : exec (.sknp x) s = .next t) :
    t.pc = (s.skipIf !s.keys.getLsbD ((s.reg x).toNat % 16)).pc := by
  simp only [exec, execSknp] at h
  split at h <;> cases h
  · cases hcompleted
  · next hkey => rw [State.eq_of_keyOf_eq_some hkey]; rfl

end

/-- LD Vx, K waits exactly when no key is pressed (44_keys_timers.md R186). -/
theorem exec_ldVxK_pc {x : Reg} {s t : State} (h : exec (.ldVxK x) s = .next t) :
    t.pc = if s.keys = 0 then s.pc else s.advance.pc := by
  cases h
  cases hk : s.lowestKey with
  | none => rw [if_pos (State.lowestKey_eq_none.1 hk)]; rfl
  | some k =>
    have hpressed : s.keys ≠ 0 := fun h0 => by simp [State.lowestKey_eq_none.2 h0] at hk
    rw [if_neg hpressed]
    rfl

/-- Settles O16: the instructions with a sequencer rule of their own each by that rule, the others by the default. -/
theorem sequencerSetsProgramCounter : Obligations.SequencerSetsProgramCounter := by
  intro i s t _ h hcompleted
  refine ⟨?_, fun j hin hj => stepRequest_of_nextWord hcompleted hin hj⟩
  cases i with
  | jp nnn => cases h; exact addr12_toNat nnn
  | call nnn => exact (congrArg BitVec.toNat (exec_call_pc hcompleted h)).trans (addr12_toNat nnn)
  | jpV0 nnn => cases h; exact addr12_add_toWord_toNat nnn (s.reg 0)
  | ret => exact exec_ret_pc hcompleted h
  | seImm | sneImm | seReg | sneReg =>
    cases h
    rw [State.skipIf_pc_toNat]
    simp
  | skp => exact (congrArg BitVec.toNat (exec_skp_pc hcompleted h)).trans (s.skipIf_pc_toNat _)
  | sknp => exact (congrArg BitVec.toNat (exec_sknp_pc hcompleted h)).trans (s.skipIf_not_pc_toNat _)
  | ldVxK =>
    have hpc := exec_ldVxK_pc h
    split at hpc
    · next hk => rw [if_pos hk]; exact hpc
    · next hk => rw [if_neg hk, hpc]; exact s.advance_pc_toNat false
  | _ =>
    cases completes_of_exec hcompleted h
    exact State.advance_pc_toNat ..

end Sys2Proof.Machine
end

section
/-! SUPPORT. Control flow (40_control_flow.md): the frame of a completion, and what RET and CALL leave in each state of
the call stack. -/

namespace Sys2Proof.Machine

/-! ### Frames -/

theorem Part.same_refl (s : State) (p : Part) : p.Same s s := by
  cases p with
  | stack => exact ⟨rfl, rfl⟩
  | memory => exact fun _ => rfl
  | display => exact fun _ _ => rfl
  | _ => rfl

theorem Unchanged.refl (s : State) (regs : List Reg) (parts : List Part) : Unchanged s s regs parts :=
  ⟨fun _ _ => rfl, fun p _ => p.same_refl s, rfl, rfl, rfl, rfl, rfl⟩

/-- Completion writes PC and FB_UPDATED alone, which no frame names (30_encoding.md R84). -/
theorem Unchanged.complete {s t : State} {regs : List Reg} {parts : List Part} (h : Unchanged s t regs parts)
    (p : Word) (drew : Bool) : Unchanged s (t.complete p drew) regs parts := by
  obtain ⟨hregs, hparts, hrest⟩ := h
  refine ⟨hregs, fun part hpart => ?_, hrest⟩
  cases part <;> exact hparts _ hpart

theorem State.unchanged_callStack (s : State) (stack : Vector Word Config.stackDepth)
    (sp : Fin (Config.stackDepth + 1)) : Unchanged s { s with stack := stack, sp := sp } [] [.stack] := by
  refine ⟨fun _ _ => rfl, fun part hpart => ?_, rfl, rfl, rfl, rfl, rfl⟩
  cases part with
  | stack => exact absurd (List.mem_singleton_self _) hpart
  | _ => simp [Part.Same]

/-! ### RET and CALL, by how full the stack is -/

section
variable {s : State}

theorem exec_ret_of_empty (h : s.sp.val = 0) : exec .ret s = raiseFatal .stackUnderflow .ret 0 s := by
  simp only [exec, execRet, State.pop_empty h]

theorem exec_ret_of_pop {t : State} {w : Word} (h : s.pop = some (w, t)) : exec .ret s = .next (t.complete w) := by
  simp only [exec, execRet, h]

theorem exec_call_of_full (nnn : BitVec 12) (h : s.sp.val = 16) :
    exec (.call nnn) s = raiseFatal .stackOverflow (.call nnn) 0 s := by
  simp only [exec, execCall, State.push_full h]

theorem exec_call_of_push (nnn : BitVec 12) {t : State} (h : s.push (s.pc + 2) = some t) :
    exec (.call nnn) s = .next (t.complete (addr12 nnn)) := by
  simp only [exec, execCall, h]

/-- A completed RET: the newest entry to PC, SP one lower (40_control_flow.md R103). -/
theorem exec_ret_of_nonempty (h : s.sp.val ≠ 0) :
    ∃ w sp, exec .ret s = .next ({ s with sp := sp }.complete w) ∧ s.stack[s.sp.val - 1]? = some w ∧
      sp.val = s.sp.val - 1 := by
  obtain ⟨w, t, hpop, htop, ht, hsp⟩ := State.pop_spec h
  exact ⟨w, t.sp, by rw [exec_ret_of_pop hpop, ← ht], htop, hsp⟩

/-- A completed CALL: `PC + 2` at the slot SP numbers, SP one higher (40_control_flow.md R105; D7). -/
theorem exec_call_of_room (nnn : BitVec 12) (h : s.sp.val < 16) :
    ∃ sp, exec (.call nnn) s =
        .next ({ s with stack := s.stack.set s.sp.val (s.pc + 2) h, sp := sp }.complete (addr12 nnn)) ∧
      sp.val = s.sp.val + 1 := by
  obtain ⟨t, hpush, ht, hsp⟩ := State.push_spec h (s.pc + 2)
  exact ⟨t.sp, by rw [exec_call_of_push nnn hpush, ← ht], hsp⟩

end

/-- Settles O32: the stack is written in one slot, the one a push numbers. -/
theorem callPushesReturnAddress : Obligations.CallPushesReturnAddress := by
  intro nnn s hroom
  obtain ⟨sp, hexec, hsp⟩ := exec_call_of_room nnn hroom
  refine ⟨_, hexec, addr12_toNat nnn, hsp, fun k => ?_, rfl, (s.unchanged_callStack _ _).complete ..⟩
  simp [Vector.getElem_set, eq_comm]

/-- Settles O33: the state after a pop, completed at the popped address. -/
theorem returnPopsItsTarget : Obligations.ReturnPopsItsTarget := by
  intro s hsp
  obtain ⟨w, sp, hexec, htop, hlower⟩ := exec_ret_of_nonempty hsp
  exact ⟨_, hexec, htop, hlower, rfl, rfl, (s.unchanged_callStack s.stack sp).complete ..⟩

/-- Settles O34: both raise, and a raise is a halt. -/
theorem stackFaultsHalt : Obligations.StackFaultsHalt := fun nnn s =>
  ⟨fun hfull => ⟨_, exec_call_of_full nnn hfull, s.haltedFrom_halt _ (some _) 0⟩,
    fun hempty => ⟨_, exec_ret_of_empty hempty, s.haltedFrom_halt _ (some _) 0⟩⟩

/-- Settles O30: RET's two outcomes are those of its pop. -/
theorem popTakesTheNewestEntry : Obligations.PopTakesTheNewestEntry := by
  refine fun s => ⟨fun hempty => ?_, fun hsp => ?_⟩
  · exact ⟨State.pop_empty hempty, _, exec_ret_of_empty hempty, rfl, rfl⟩
  · obtain ⟨w, t, hpop, htop, ht, hlower⟩ := State.pop_spec hsp
    have hstack : t.stack = s.stack := by rw [ht]
    exact ⟨w, t, hpop, htop, hlower, hstack, _, exec_ret_of_pop hpop, rfl, rfl, hstack⟩

/-- Settles O31: neither jump writes anything before it completes, and neither target wraps. -/
theorem jumpsGoToTheirTargets : Obligations.JumpsGoToTheirTargets := fun nnn s =>
  ⟨⟨_, rfl, addr12_toNat nnn, rfl, (Unchanged.refl s [] []).complete ..⟩,
    _, rfl, addr12_add_toWord_toNat nnn (s.reg 0), rfl, (Unchanged.refl s [] []).complete ..⟩

/-- Settles O35: RET pops the slot the CALL pushed, since one push and one pop cancel in SP. -/
theorem callThenReturnResumesAfterTheCall : Obligations.CallThenReturnResumesAfterTheCall := by
  intro nnn s hroom
  obtain ⟨spCall, hcall, hraise⟩ := exec_call_of_room nnn hroom
  refine ⟨_, hcall, fun t' hsp hslot => ?_⟩
  have hsp' : t'.sp.val = s.sp.val + 1 := (congrArg Fin.val hsp).trans hraise
  obtain ⟨w, spRet, hret, htop, hlower⟩ := exec_ret_of_nonempty (s := t') (by omega)
  have hback : t'.sp.val - 1 = s.sp.val := by omega
  have hpushed : t'.stack[s.sp.val]? = some (s.pc + 2) := by simp [hslot]
  rw [hback, hpushed] at htop
  exact ⟨_, hret, (Option.some.inj htop).symm, Fin.ext (hlower.trans hback)⟩

/-! ### The skips -/

/-- A skip advances PC by 4 or by 2 and writes nothing else (30_encoding.md R87). -/
theorem State.skipIf_of_iff (s : State) {taken : Bool} {cond : Prop} [Decidable cond] (h : taken = true ↔ cond) :
    (s.skipIf taken).pc = s.pc + (if cond then 4 else 2) ∧ (s.skipIf taken).fbUpdated = false ∧
      Unchanged s (s.skipIf taken) [] [] := by
  refine ⟨?_, rfl, (Unchanged.refl s [] []).complete ..⟩
  by_cases hc : cond <;> simp [h, hc]

/-- A skip on inequality, told by the equality (40_control_flow.md R107, R109). -/
theorem State.skipIf_bne (s : State) (a b : Byte) :
    (s.skipIf (a != b)).pc = s.pc + (if a = b then 2 else 4) ∧ (s.skipIf (a != b)).fbUpdated = false ∧
      Unchanged s (s.skipIf (a != b)) [] [] := by
  simpa only [ne_eq, ite_not] using s.skipIf_of_iff (bne_iff_ne (a := a) (b := b))

/-- Settles O36: two instructions skip on equality, two on inequality, of a register and their other operand. -/
theorem registerSkipsAdvanceByFourOrTwo : Obligations.RegisterSkipsAdvanceByFourOrTwo := fun x y nn s =>
  ⟨⟨_, rfl, s.skipIf_of_iff beq_iff_eq⟩, ⟨_, rfl, s.skipIf_bne (s.reg x) nn⟩,
    ⟨_, rfl, s.skipIf_of_iff beq_iff_eq⟩, _, rfl, s.skipIf_bne (s.reg x) (s.reg y)⟩

end Sys2Proof.Machine
end

section
/-! SUPPORT. The register ALU (41_alu.md): the frame and the reads of a register write and of a result with its flag,
and the results and flags as numbers. -/

namespace Sys2Proof.Machine

/-! ### Writes to registers inside a frame -/

/-- A frame that names `x` admits a write to it, VF included (10_state.md R21). -/
theorem Unchanged.setReg {s t : State} {regs : List Reg} {parts : List Part} (h : Unchanged s t regs parts) {x : Reg}
    (hx : x ∈ regs) (b : Byte) : Unchanged s (t.setReg x b) regs parts := by
  obtain ⟨hregs, hparts, hrest⟩ := h
  refine ⟨fun r hr => ?_, fun part hpart => ?_, hrest⟩
  · have hne : r ≠ x := fun heq => hr (heq ▸ hx)
    rw [State.reg_setReg, if_neg hne]
    exact hregs r hr
  · cases part <;> exact hparts _ hpart

/-- A draw of the random input leaves the next input and advances the count (60_exceptions.md R221; log 3). -/
theorem State.unchanged_randDrawn (s : State) (regs : List Reg) :
    Unchanged s s.randDrawn regs [.randInput, .sampleCount] := by
  refine ⟨fun _ _ => rfl, fun part hpart => ?_, rfl, rfl, rfl, rfl, rfl⟩
  cases part with
  | randInput | sampleCount => simp at hpart
  | _ => simp [Part.Same]

section
variable (s : State) (x : Reg) (b flag : Byte)

/-- The destination after a completed write to it alone. -/
theorem State.reg_setReg_advance : (s.setReg x b).advance.reg x = b := by simp

/-- What a completed write to `V[x]` leaves besides the value: PC at the default, and the frame. -/
theorem State.setReg_advance_frame :
    (s.setReg x b).advance.pc = s.pc + 2 ∧ (s.setReg x b).advance.fbUpdated = false ∧
      Unchanged s (s.setReg x b).advance [x] [] :=
  ⟨rfl, rfl, ((Unchanged.refl s _ _).setReg (List.mem_singleton_self x) b).complete ..⟩

variable {x} in
/-- A destination other than VF keeps the result under the flag's write (41_alu.md R120; D9). -/
theorem State.reg_setRegAndFlag_advance (hx : x ≠ vf) : (s.setRegAndFlag x b flag).advance.reg x = b := by
  simp [hx]

/-- VF ends as the flag, `x = 15` included (41_alu.md R120; D9). -/
theorem State.vf_setRegAndFlag_advance : (s.setRegAndFlag x b flag).advance.reg vf = flag := by simp

/-- What a completed write of a result and its flag leaves besides the two: PC at the default, and the frame. -/
theorem State.setRegAndFlag_advance_frame :
    (s.setRegAndFlag x b flag).advance.pc = s.pc + 2 ∧ (s.setRegAndFlag x b flag).advance.fbUpdated = false ∧
      Unchanged s (s.setRegAndFlag x b flag).advance [x, vf] [] := by
  have hresult : Unchanged s (s.setReg x b) [x, vf] [] := (Unchanged.refl s _ _).setReg (by simp) b
  exact ⟨rfl, rfl, (hresult.setReg (by simp) flag).complete ..⟩

/-- The source of a shift, by the parameter (41_alu.md R129, R131; D8). -/
theorem State.shiftOperand_eq (y : Reg) :
    s.shiftOperand x y = if s.params.shiftSource = .vx then s.reg x else s.reg y := by
  unfold State.shiftOperand
  cases s.params.shiftSource <;> rfl

end

/-! ### Results and flags as numbers -/

section
variable (a b : Byte)

theorem byte_sub_toNat : (a - b).toNat = (a.toNat + 256 - b.toNat) % 256 := by
  have := b.isLt
  rw [BitVec.toNat_sub]
  omega

theorem byte_shiftRight_one_toNat : (a >>> 1).toNat = a.toNat / 2 := by
  rw [BitVec.toNat_ushiftRight, Nat.shiftRight_eq_div_pow, pow_one]

theorem byte_shiftLeft_one_toNat : (a <<< 1).toNat = a.toNat * 2 % 256 := by
  rw [BitVec.toNat_shiftLeft, Nat.shiftLeft_eq, pow_one]

theorem carry_eq_ite : carry a b = if a.toNat + b.toNat > 255 then 1 else 0 := by simp [carry, flagByte]

theorem notBorrow_eq_ite : notBorrow a b = if a.toNat ≥ b.toNat then 1 else 0 := by simp [notBorrow, flagByte]

theorem shiftedOutRight_toNat : (shiftedOutRight a).toNat = a.toNat % 2 := by
  rw [shiftedOutRight, flagByte_toNat, BitVec.getLsbD, Nat.toNat_testBit, pow_zero, Nat.div_one]

theorem shiftedOutLeft_toNat : (shiftedOutLeft a).toNat = a.toNat / 128 := by
  have := a.isLt
  rw [shiftedOutLeft, flagByte_toNat, BitVec.getLsbD, Nat.toNat_testBit]
  omega

end

/-! ### The instructions with a flag -/

/-- Settles O40: the sum and its carry, result first, flag second. -/
theorem addRegistersSetsCarry : Obligations.AddRegistersSetsCarry := fun x _ s =>
  ⟨_, rfl, fun hx => (congrArg BitVec.toNat (s.reg_setRegAndFlag_advance _ _ hx)).trans (BitVec.toNat_add ..),
    (s.vf_setRegAndFlag_advance x _ _).trans (carry_eq_ite ..), s.setRegAndFlag_advance_frame x _ _⟩

/-- An execution that puts `a - b` in `V[x]` and the NOT borrow in VF (41_alu.md R120, R128, R130; D9, D10). -/
theorem exec_of_difference {i : Instr} {s : State} {x : Reg} {a b : Byte}
    (h : exec i s = .next (s.setRegAndFlag x (a - b) (notBorrow a b)).advance) :
    ∃ t, exec i s = .next t ∧ (x ≠ vf → (t.reg x).toNat = (a.toNat + 256 - b.toNat) % 256) ∧
      t.reg vf = (if a.toNat ≥ b.toNat then 1 else 0) ∧ t.pc = s.pc + 2 ∧ t.fbUpdated = false ∧
      Unchanged s t [x, vf] [] :=
  ⟨_, h, fun hx => by rw [s.reg_setRegAndFlag_advance _ _ hx, byte_sub_toNat],
    (s.vf_setRegAndFlag_advance x _ _).trans (notBorrow_eq_ite ..), s.setRegAndFlag_advance_frame x _ _⟩

/-- Settles O41: one difference with its NOT borrow, its operands in the two orders. -/
theorem subtractionsSetNotBorrow : Obligations.SubtractionsSetNotBorrow := fun _ _ _ =>
  ⟨exec_of_difference rfl, exec_of_difference rfl⟩

/-- Settles O42: the source is the model's shift operand, and each shift moves one bit of it out. -/
theorem shiftsMoveOneBitIntoFlag : Obligations.ShiftsMoveOneBitIntoFlag := by
  intro x y s src hsrc
  rw [← s.shiftOperand_eq x y] at hsrc
  subst hsrc
  refine ⟨⟨_, rfl, fun hx => ?_, ?_, s.setRegAndFlag_advance_frame x _ _⟩,
    _, rfl, fun hx => ?_, ?_, s.setRegAndFlag_advance_frame x _ _⟩
  · rw [s.reg_setRegAndFlag_advance _ _ hx, byte_shiftRight_one_toNat]
  · rw [s.vf_setRegAndFlag_advance, shiftedOutRight_toNat]
  · rw [s.reg_setRegAndFlag_advance _ _ hx, byte_shiftLeft_one_toNat]
  · rw [s.vf_setRegAndFlag_advance, shiftedOutLeft_toNat]

/-! ### The instructions without a flag -/

/-- Settles O43: the draw is masked into one register, and leaves the next draw free. -/
theorem randomStoresMaskedDraw : Obligations.RandomStoresMaskedDraw := by
  intro x nn s
  refine ⟨_, rfl, fun k => ?_, rfl, rfl, rfl, ?_⟩
  · rw [State.reg_setReg_advance, BitVec.getLsbD_and]
  · exact ((s.unchanged_randDrawn [x]).setReg (List.mem_singleton_self x) _).complete ..

/-- Settles O37: two writes of one register. -/
theorem loadImmediateAndCopySetOneRegister : Obligations.LoadImmediateAndCopySetOneRegister := fun x y nn s =>
  ⟨⟨_, rfl, s.reg_setReg_advance x nn, s.setReg_advance_frame x nn⟩,
    _, rfl, s.reg_setReg_advance x (s.reg y), s.setReg_advance_frame x (s.reg y)⟩

/-- Settles O38: the 8-bit sum, and no write beside it. -/
theorem addImmediateWrapsWithoutFlag : Obligations.AddImmediateWrapsWithoutFlag := fun x _ s =>
  ⟨_, rfl, (congrArg BitVec.toNat (s.reg_setReg_advance x _)).trans (BitVec.toNat_add ..), s.setReg_advance_frame x _⟩

/-- Settles O39: the three results bit by bit, each a write of one register. -/
theorem logicActsBitwiseWithoutFlag : Obligations.LogicActsBitwiseWithoutFlag := by
  intro x y s
  refine ⟨⟨_, rfl, fun k => ?_, s.setReg_advance_frame x _⟩, ⟨_, rfl, fun k => ?_, s.setReg_advance_frame x _⟩,
    _, rfl, fun k => ?_, s.setReg_advance_frame x _⟩
  · rw [s.reg_setReg_advance, BitVec.getLsbD_or]
  · rw [s.reg_setReg_advance, BitVec.getLsbD_and]
  · rw [s.reg_setReg_advance, BitVec.getLsbD_xor]

end Sys2Proof.Machine
end

section
/-! SUPPORT. The index register and memory through I (42_index_memory.md): the frames of a write to I, to memory and to
the registers of a block, and the transfers that fit. -/

namespace Sys2Proof.Machine

/-! ### Frames -/

theorem State.unchanged_setI (s : State) (w : Word) : Unchanged s (s.setI w) [] [.index] := by
  refine ⟨fun _ _ => rfl, fun part hpart => ?_, rfl, rfl, rfl, rfl, rfl⟩
  cases part with
  | index => exact absurd (List.mem_singleton_self _) hpart
  | _ => simp [Part.Same]

theorem State.unchanged_setMem (s : State) (m : Memory) : Unchanged s (s.setMem m) [] [.memory] := by
  refine ⟨fun _ _ => rfl, fun part hpart => ?_, rfl, rfl, rfl, rfl, rfl⟩
  cases part with
  | memory => exact absurd (List.mem_singleton_self _) hpart
  | _ => simp [Part.Same]

theorem State.unchanged_setRegsUpTo (s : State) (x : Reg) (bs : List Byte) :
    Unchanged s (s.setRegsUpTo x bs) ((List.finRange 16).filter fun k => k.val ≤ x.val) [] := by
  refine ⟨fun r hr => ?_, fun part _ => ?_, by simp⟩
  · have habove : ¬r.val ≤ x.val := by simpa using hr
    rw [State.reg_setRegsUpTo, if_neg habove]
  · cases part <;> simp [Part.Same]

/-! ### The index register -/

/-- The instructions on I: an execution that writes `w` to I and completes (42_index_memory.md R151 to R153). -/
theorem exec_of_setI {i : Instr} {s : State} {w : Word} {n : Nat} (h : exec i s = .next (s.setI w).advance)
    (hw : w.toNat = n) :
    ∃ t, exec i s = .next t ∧ t.i.toNat = n ∧ t.pc = s.pc + 2 ∧ t.fbUpdated = false ∧ Unchanged s t [] [.index] :=
  ⟨_, h, hw, rfl, rfl, (s.unchanged_setI w).complete ..⟩

/-- Settles O44: three values written to I, of which the sum alone can wrap. -/
theorem indexInstructionsSetOnlyIndex : Obligations.IndexInstructionsSetOnlyIndex := by
  intro x nnn s
  have hsum : (s.i + (s.reg x).toWord).toNat = (s.i.toNat + (s.reg x).toNat) % 65536 := by
    rw [BitVec.toNat_add, BitVec.toNat_setWidth_of_le (by decide)]
  exact ⟨exec_of_setI rfl (addr12_toNat nnn), exec_of_setI rfl hsum, exec_of_setI rfl (glyphAddr_toNat (s.reg x))⟩

/-! ### Transfers that fit -/

/-- What a completed write to memory leaves besides the bytes: PC at the default, and the frame, I in it (D12). -/
theorem State.setMem_advance_frame (s : State) (m : Memory) :
    (s.setMem m).advance.pc = s.pc + 2 ∧ (s.setMem m).advance.fbUpdated = false ∧
      Unchanged s (s.setMem m).advance [] [.memory] :=
  ⟨rfl, rfl, (s.unchanged_setMem m).complete ..⟩

/-- LD B that fits (42_index_memory.md R154). -/
theorem exec_ldB_of_inRange (x : Reg) {s : State} (h : s.i.toNat + 2 < 4096) :
    exec (.ldB x) s = .next (s.setMem (s.mem.setBytes (s.ea 0) (bcdDigits (s.reg x)))).advance := by
  have hr : s.rangeOk 3 = true := State.rangeOk_last.2 h
  simp [exec, execLdB, hr]

/-- A block load that fits (42_index_memory.md R156). -/
theorem exec_loadRegs_of_inRange {x : Reg} {s : State} (h : s.i.toNat + x.val < 4096) :
    exec (.loadRegs x) s = .next (s.setRegsUpTo x (s.mem.getBytes (s.ea 0) (x.val + 1))).advance := by
  have hr : s.rangeOk (x.val + 1) = true := State.rangeOk_last.2 h
  simp [exec, execLoadRegs, hr]

/-- A register of the block holds its byte of memory after the load. -/
theorem State.reg_setRegsUpTo_getBytes (s : State) {x k : Reg} (h : k.val ≤ x.val) :
    (s.setRegsUpTo x (s.mem.getBytes (s.ea 0) (x.val + 1))).reg k = s.mem.get (s.ea k.val) := by
  rw [State.reg_setRegsUpTo, if_pos h, Memory.getD_getBytes _ _ _ _ (Nat.lt_succ_of_le h)]
  rfl

/-- Bytes written from I on read back in order. -/
theorem State.get_setBytes_ea (s : State) {bs : List Byte} {k : Nat} (h : k < bs.length) :
    (s.mem.setBytes (s.ea 0) bs).get (s.ea k) = bs.getD k 0 := by
  rw [Memory.get_setBytes, if_pos (by simp only [State.ea]; omega)]
  simp only [State.ea, Nat.add_zero, Nat.add_sub_cancel_left]

/-- Bytes written from I on leave every byte before and after them. -/
theorem State.get_setBytes_ea_of_outside (s : State) {bs : List Byte} {a : Nat}
    (h : a < s.ea 0 ∨ s.ea bs.length ≤ a) : (s.mem.setBytes (s.ea 0) bs).get a = s.mem.get a := by
  rw [Memory.get_setBytes, if_neg]
  simp only [State.ea] at h ⊢
  omega

/-- The three digits as numbers (42_index_memory.md R154). -/
theorem bcdDigits_toNat (v : Byte) :
    ((bcdDigits v).getD 0 0).toNat = v.toNat / 100 ∧ ((bcdDigits v).getD 1 0).toNat = v.toNat / 10 % 10 ∧
      ((bcdDigits v).getD 2 0).toNat = v.toNat % 10 := by
  have := v.isLt
  simp only [bcdDigits, List.getD_cons_zero, List.getD_cons_succ, BitVec.toNat_ofNat]
  omega

/-- Settles O45: the memory LD B leaves, read inside and outside its three bytes. -/
theorem bcdStoreWritesThreeDigits : Obligations.BcdStoreWritesThreeDigits := by
  intro x s hfits
  obtain ⟨hundreds, tens, ones⟩ := bcdDigits_toNat (s.reg x)
  refine ⟨_, exec_ldB_of_inRange x hfits, ?_, ?_, ?_, fun a ha => s.get_setBytes_ea_of_outside ha,
    s.setMem_advance_frame _⟩
  · rw [State.advance_mem, State.setMem_mem, s.get_setBytes_ea (by simp), hundreds]
  · rw [State.advance_mem, State.setMem_mem, s.get_setBytes_ea (by simp), tens]
  · rw [State.advance_mem, State.setMem_mem, s.get_setBytes_ea (by simp), ones]

/-- Settles O46: the memory a block store leaves, read inside and outside the block. -/
theorem blockStoreWritesRegistersInOrder : Obligations.BlockStoreWritesRegistersInOrder := fun _ s hfits =>
  ⟨_, exec_storeRegs_of_inRange hfits, fun _ hk => s.get_setBytes_regsUpTo_of_le hk,
    fun _ ha => s.get_setBytes_regsUpTo_of_outside ha, s.setMem_advance_frame _⟩

/-- Settles O47: the block load writes the registers of the block and nothing else. -/
theorem blockLoadReadsRegistersInOrder : Obligations.BlockLoadReadsRegistersInOrder := by
  intro x s hfits
  refine ⟨_, exec_loadRegs_of_inRange hfits, fun k hk => ?_, fun k hk => ?_, by simp, rfl,
    (s.unchanged_setRegsUpTo x _).complete ..⟩
  · rw [State.reg_advance, s.reg_setRegsUpTo_getBytes hk]
  · rw [State.reg_advance, State.reg_setRegsUpTo, if_neg (Nat.not_le.2 hk)]

/-- Settles O49: the load reads at the same addresses the bytes that the store put there. -/
theorem blockLoadInvertsBlockStore : Obligations.BlockLoadInvertsBlockStore := by
  intro x s t hfits hstore t' hi hmem
  obtain ⟨u, hu, hstored, -, -, -, -, hparts, -⟩ := blockStoreWritesRegistersInOrder x s hfits
  obtain rfl : u = t := by simpa [hu] using hstore
  have hi' : t'.i = s.i := hi.trans (hparts .index (by decide))
  obtain ⟨w, hw, hloaded, -⟩ := blockLoadReadsRegistersInOrder x t' (hi' ▸ hfits)
  have hea (k : Nat) : t'.ea k = s.ea k := by rw [State.ea, State.ea, hi']
  exact ⟨w, hw, fun k hk => by rw [hloaded k hk, hmem, hea, hstored k hk]⟩

end Sys2Proof.Machine
end

section
/-! SUPPORT. The display (43_display.md): what the requests and a step do to the framebuffer, and the state a completed
draw leaves, told by the cells its sprite covers. -/

namespace Sys2Proof.Machine

/-! ### CLS -/

theorem State.unchanged_setFb (s : State) (fb : Framebuffer) : Unchanged s (s.setFb fb) [] [.display] := by
  refine ⟨fun _ _ => rfl, fun part hpart => ?_, rfl, rfl, rfl, rfl, rfl⟩
  cases part with
  | display => exact absurd (List.mem_singleton_self _) hpart
  | _ => simp [Part.Same]

/-- Settles O51: the clear framebuffer is all that CLS writes before it completes. -/
theorem clearScreenZeroesEveryCell : Obligations.ClearScreenZeroesEveryCell := fun s =>
  ⟨_, rfl, Framebuffer.get_clear, rfl, rfl, (s.unchanged_setFb _).complete ..⟩

/-! ### The sprite and the state a completed draw leaves -/

/-- The cells a draw XORs, in the order in which it does (43_display.md R172). -/
def State.sprite (s : State) (x y : Reg) (n : Fin 16) : List (Fin Config.fbRows × Fin Config.fbCols) :=
  spriteCells (s.reg x).toNat (s.reg y).toNat (s.mem.getBytes (s.ea 0) n.val)

/-- The state a completed draw leaves: the framebuffer and the collision of its sprite (43_display.md R172). -/
def State.afterDraw (s : State) (x y : Reg) (n : Fin 16) : State :=
  ((s.setFb (drawCells s.fb false (s.sprite x y n)).1).setReg vf
    (flagByte (drawCells s.fb false (s.sprite x y n)).2)).advance true

/-- XOR-ing cell by cell, as a fold of XOR-pixel (43_display.md R170). -/
theorem drawCells_fst_eq_foldl (cells : List (Fin Config.fbRows × Fin Config.fbCols)) (fb : Framebuffer) (hit : Bool) :
    (drawCells fb hit cells).1 = cells.foldl (fun fb p => (fb.xorPixel p.1 p.2).2) fb := by
  induction cells generalizing fb hit with
  | nil => rfl
  | cons p cells ih => exact ih ..

section
variable (s : State) (x y : Reg) (n : Fin 16)

/-- The cells of the sprite are those on which its bytes of memory have a set bit. -/
theorem State.mem_sprite {p : Fin Config.fbRows × Fin Config.fbCols} :
    p ∈ s.sprite x y n ↔ SpriteCovers s x y n.val p.1 p.2 := by
  have hbyte {k : Nat} (hk : k < n.val) : (s.mem.getBytes (s.ea 0) n.val).getD k 0 = s.mem.get (s.ea k) :=
    Memory.getD_getBytes _ _ _ _ hk
  rw [State.sprite, mem_spriteCells, Memory.length_getBytes, SpriteCovers]
  constructor
  · rintro ⟨k, hk, hrow, b, hb, hcol, hbit⟩
    exact ⟨k, hk, b, hb, hrow, hcol, hbyte hk ▸ hbit⟩
  · rintro ⟨k, hk, b, hb, hrow, hcol, hbit⟩
    exact ⟨k, hk, hrow, b, hb, hcol, (hbyte hk).symm ▸ hbit⟩

/-- At most 15 rows, so no cell is XOR-ed twice (43_display.md R172). -/
theorem State.nodup_sprite : (s.sprite x y n).Nodup :=
  nodup_spriteCells _ _ _ (by rw [Memory.length_getBytes]; omega)

/-- A draw completes or halts. -/
theorem exec_drw_cases :
    exec (.drw x y n) s = .next (s.afterDraw x y n) ∨
      exec (.drw x y n) s = raiseFatal .dataOutOfRange (.drw x y n) s.firstOutOfRange s := by
  by_cases hcheck : n.val = 0 ∨ s.rangeOk n.val = true
  · exact .inl (if_pos hcheck)
  · exact .inr (if_neg hcheck)

variable {s x y n}

/-- A draw of no rows, or of rows that lie in memory, completes (43_display.md R172; D14). -/
theorem exec_drw_of_fits (h : n.val = 0 ∨ s.i.toNat + n.val - 1 < 4096) :
    exec (.drw x y n) s = .next (s.afterDraw x y n) := by
  have hcheck : n.val = 0 ∨ s.rangeOk n.val = true := by rw [State.rangeOk_last]; omega
  exact if_pos hcheck

variable {row : Fin Config.fbRows} {col : Fin Config.fbCols}

/-- A covered cell is inverted. -/
theorem State.get_afterDraw_of_covered (h : SpriteCovers s x y n.val row col) :
    (s.afterDraw x y n).fb.get row col = !s.fb.get row col := by
  have hmem : (row, col) ∈ s.sprite x y n := (s.mem_sprite x y n).2 h
  exact (get_drawCells (s.nodup_sprite x y n) row col).trans (by simp [hmem])

/-- A cell that is not covered stays. -/
theorem State.get_afterDraw_of_not_covered (h : ¬SpriteCovers s x y n.val row col) :
    (s.afterDraw x y n).fb.get row col = s.fb.get row col := by
  have hmem : (row, col) ∉ s.sprite x y n := fun hp => h ((s.mem_sprite x y n).1 hp)
  exact (get_drawCells (s.nodup_sprite x y n) row col).trans (by simp [hmem])

/-- The collision: whether a covered cell is set before the draw (43_display.md R172). -/
theorem State.collision_iff :
    (drawCells s.fb false (s.sprite x y n)).2 = true ↔
      ∃ row col, SpriteCovers s x y n.val row col ∧ s.fb.get row col = true := by
  rw [hit_drawCells (s.nodup_sprite x y n), Bool.false_or, List.any_eq_true]
  simp only [State.mem_sprite, Prod.exists]

theorem State.vf_afterDraw :
    (s.afterDraw x y n).reg vf = flagByte (drawCells s.fb false (s.sprite x y n)).2 := by
  simp [State.afterDraw]

theorem State.vf_afterDraw_of_collision
    (h : ∃ row col, SpriteCovers s x y n.val row col ∧ s.fb.get row col = true) : (s.afterDraw x y n).reg vf = 1 := by
  rw [State.vf_afterDraw, State.collision_iff.2 h]
  rfl

theorem State.vf_afterDraw_of_no_collision
    (h : ¬∃ row col, SpriteCovers s x y n.val row col ∧ s.fb.get row col = true) : (s.afterDraw x y n).reg vf = 0 := by
  rw [State.vf_afterDraw, Bool.eq_false_of_not_eq_true fun hhit => h (State.collision_iff.1 hhit)]
  rfl

end

theorem State.unchanged_afterDraw (s : State) (x y : Reg) (n : Fin 16) :
    Unchanged s (s.afterDraw x y n) [vf] [.display] := by
  have hfb : Unchanged s (s.setFb (drawCells s.fb false (s.sprite x y n)).1) [vf] [.display] := by
    obtain ⟨hregs, hrest⟩ := s.unchanged_setFb (drawCells s.fb false (s.sprite x y n)).1
    exact ⟨fun r _ => hregs r List.not_mem_nil, hrest⟩
  exact (hfb.setReg (List.mem_singleton_self _) _).complete ..

/-- Settles O52: the state a completed draw leaves, cell by cell and in VF. -/
theorem drawInvertsExactlyTheSpriteCells : Obligations.DrawInvertsExactlyTheSpriteCells := fun x y n s hfits =>
  ⟨_, exec_drw_of_fits hfits,
    fun _ _ => ⟨State.get_afterDraw_of_covered, State.get_afterDraw_of_not_covered⟩,
    State.vf_afterDraw_of_collision, State.vf_afterDraw_of_no_collision, rfl, rfl, s.unchanged_afterDraw x y n⟩

/-! ### Drawing twice -/

/-- The cells a sprite covers are told by its coordinates, I and memory. -/
theorem spriteCovers_congr {s t : State} {x y : Reg} (hx : t.reg x = s.reg x) (hy : t.reg y = s.reg y) (hi : t.i = s.i)
    (hmem : ∀ a, t.mem.get a = s.mem.get a) (n : Nat) (row : Fin Config.fbRows) (col : Fin Config.fbCols) :
    SpriteCovers t x y n row col ↔ SpriteCovers s x y n row col := by
  simp only [SpriteCovers, State.ea, hx, hy, hi, hmem]

/-- Settles O53: the second draw covers the cells of the first, which hold the inverse of what they held before it. -/
theorem drawingTwiceErases : Obligations.DrawingTwiceErases := by
  intro x y n s t hfits hdraw hx hy
  obtain rfl : s.afterDraw x y n = t := by simpa [exec_drw_of_fits hfits] using hdraw
  have hcovers := spriteCovers_congr hx hy rfl (fun _ => rfl) n.val
  refine ⟨_, exec_drw_of_fits hfits, fun row col => ?_, fun hclear => ⟨?_, ?_, ?_⟩⟩
  · by_cases hc : SpriteCovers s x y n.val row col
    · rw [State.get_afterDraw_of_covered ((hcovers row col).2 hc), State.get_afterDraw_of_covered hc, Bool.not_not]
    · rw [State.get_afterDraw_of_not_covered (mt (hcovers row col).1 hc), State.get_afterDraw_of_not_covered hc]
  · apply State.vf_afterDraw_of_no_collision
    rintro ⟨row, col, -, hset⟩
    rw [hclear] at hset
    cases hset
  · intro hvf
    by_contra hnone
    rw [State.vf_afterDraw_of_no_collision fun ⟨row, col, hc, _⟩ => hnone ⟨row, col, (hcovers row col).1 hc⟩] at hvf
    exact absurd hvf (by decide)
  · rintro ⟨row, col, hc⟩
    refine State.vf_afterDraw_of_collision ⟨row, col, (hcovers row col).2 hc, ?_⟩
    rw [State.get_afterDraw_of_covered hc, hclear]
    rfl

/-! ### What changes the framebuffer -/

@[simp] theorem State.tickRequest_fb (s : State) : s.tickRequest.fb = s.fb := by
  unfold State.tickRequest
  split <;> rfl

@[simp] theorem State.quitRequest_fb (s : State) : s.quitRequest.fb = s.fb := by
  unfold State.quitRequest
  split <;> rfl

@[simp] theorem State.loadRequest_fb (s : State) (bytes : List Byte) : (s.loadRequest bytes).fb = s.fb := by
  unfold State.loadRequest
  split <;> rfl

/-- A word that was fetched is the one PC points at (20_memory.md R55). -/
theorem State.nextWord_of_fetch_ok {s : State} {w : Word} (h : s.fetch = .ok w) : s.nextWord = w := by
  by_cases hin : s.pc.toNat + 1 < 4096
  · simpa [State.fetch_nextWord hin] using h
  · simp [State.fetch_error (Nat.le_of_not_lt hin)] at h

/-- A step that changes the framebuffer executes an instruction: it neither stays halted nor halts at its fetch or its
decoding (30_encoding.md R84). -/
theorem exec_of_stepRequest_fb_ne {s t : State} (h : stepRequest s = .next t) (hfb : t.fb ≠ s.fb) :
    ∃ i, decodeWord s.nextWord = some i ∧ exec i s = .next t := by
  rcases stepRequest_cases s with hh | ⟨hh, ⟨a, hf⟩ | ⟨w, hf, hw⟩ | ⟨w, i, hf, hw⟩⟩
  · rw [stepRequest_of_halted hh] at h
    cases h
    exact absurd rfl hfb
  · rw [stepRequest_of_fetch_error hh hf] at h
    cases h
    exact absurd rfl hfb
  · rw [stepRequest_of_unmapped hh hf hw] at h
    cases h
    exact absurd rfl hfb
  · rw [stepRequest_of_decoded hh hf hw] at h
    exact ⟨i, State.nextWord_of_fetch_ok hf ▸ hw, h⟩

/-- A draw that changes the framebuffer completed. -/
theorem eq_afterDraw_of_exec_drw_fb_ne {s t : State} {x y : Reg} {n : Fin 16} (h : exec (.drw x y n) s = .next t)
    (hfb : t.fb ≠ s.fb) : t = s.afterDraw x y n := by
  rcases exec_drw_cases s x y n with hdraw | hhalt
  · rw [hdraw] at h
    cases h
    rfl
  · rw [hhalt] at h
    cases h
    exact absurd rfl hfb

/-- Settles O29: the laws of the two write operations; a step that changes the framebuffer executes one of the two
instructions that O25 allows; and the requests. -/
theorem framebufferChangesOnlyByClearAndXor : Obligations.FramebufferChangesOnlyByClearAndXor := by
  refine ⟨Framebuffer.get_clear, fun fb row r col c => ⟨rfl, fb.get_xorPixel row r col c⟩, fun s t h hfb => ?_,
    fun s bytes => ⟨s.tickRequest_fb, s.quitRequest_fb, s.loadRequest_fb bytes, rfl⟩⟩
  obtain ⟨i, hi, hexec⟩ := exec_of_stepRequest_fb_ne h hfb
  obtain ⟨-, -, -, -, hwriter, -⟩ := stateIsWrittenOnlyByItsInstructions i s t hexec
  rcases hwriter hfb with rfl | ⟨x, y, n, rfl⟩
  · cases hexec
    exact .inl ⟨hi, rfl⟩
  · obtain rfl := eq_afterDraw_of_exec_drw_fb_ne hexec hfb
    exact .inr ⟨x, y, n, hi, s.sprite x y n, s.nodup_sprite x y n, fun _ => s.mem_sprite x y n,
      drawCells_fst_eq_foldl ..⟩

end Sys2Proof.Machine
end

section
/-! SUPPORT. Keys and timers (44_keys_timers.md): the frames of a write to a timer and of a sample of the keys, and what
the key instructions do by what their query finds. -/

namespace Sys2Proof.Machine

/-! ### Timers -/

theorem State.unchanged_setDt (s : State) (b : Byte) : Unchanged s (s.setDt b) [] [.delayTimer] := by
  refine ⟨fun _ _ => rfl, fun part hpart => ?_, rfl, rfl, rfl, rfl, rfl⟩
  cases part with
  | delayTimer => exact absurd (List.mem_singleton_self _) hpart
  | _ => simp [Part.Same]

theorem State.unchanged_setSt (s : State) (b : Byte) : Unchanged s (s.setSt b) [] [.soundTimer] := by
  refine ⟨fun _ _ => rfl, fun part hpart => ?_, rfl, rfl, rfl, rfl, rfl⟩
  cases part with
  | soundTimer => exact absurd (List.mem_singleton_self _) hpart
  | _ => simp [Part.Same]

/-- Settles O54: a write of one register and a write of each timer. -/
theorem timerTransfersMoveOneByte : Obligations.TimerTransfersMoveOneByte := fun x s =>
  ⟨⟨_, rfl, s.reg_setReg_advance x s.dt, s.setReg_advance_frame x s.dt⟩,
    ⟨_, rfl, rfl, rfl, rfl, (s.unchanged_setDt _).complete ..⟩,
    _, rfl, rfl, rfl, rfl, (s.unchanged_setSt _).complete ..⟩

/-! ### The skips on a key -/

/-- A sample of the keys leaves the next input and advances the count (60_exceptions.md R219; log 3). -/
theorem State.unchanged_keysSampled (s : State) (regs : List Reg) :
    Unchanged s s.keysSampled regs [.keyInput, .sampleCount] := by
  refine ⟨fun _ _ => rfl, fun part hpart => ?_, rfl, rfl, rfl, rfl, rfl⟩
  cases part with
  | keyInput | sampleCount => simp at hpart
  | _ => simp [Part.Same]

section
variable {s : State} {x : Reg}

/-- The key numbers that can be queried: those below 16, and all of them under MASK (44_keys_timers.md R180; D15). -/
theorem State.keyOf_readable {v : Byte} (h : v.toNat < 16 ∨ s.params.keyIndexOverflow = .mask) :
    s.keyOf v = some (s.keys.getLsbD (v.toNat % 16)) := by
  rcases h with hlow | hmask
  · rw [State.keyOf_low hlow, Nat.mod_eq_of_lt hlow]
  · exact State.keyOf_mask hmask

theorem exec_skp_of_keyOf {pressed : Bool} (h : s.keyOf (s.reg x) = some pressed) :
    exec (.skp x) s = .next (s.keysSampled.skipIf pressed) := by
  simp only [exec, execSkp, h]

theorem exec_sknp_of_keyOf {pressed : Bool} (h : s.keyOf (s.reg x) = some pressed) :
    exec (.sknp x) s = .next (s.keysSampled.skipIf !pressed) := by
  simp only [exec, execSknp, h]

theorem exec_skp_of_keyOf_none (h : s.keyOf (s.reg x) = none) :
    exec (.skp x) s = raiseFatal .keyOutOfRange (.skp x) 0 s := by
  simp only [exec, execSkp, h]

theorem exec_sknp_of_keyOf_none (h : s.keyOf (s.reg x) = none) :
    exec (.sknp x) s = raiseFatal .keyOutOfRange (.sknp x) 0 s := by
  simp only [exec, execSknp, h]

end

/-- A skip after a sample of the keys: PC by the skip, and the sample all that is written beside it. -/
theorem State.keysSampled_skipIf_of_iff (s : State) {taken : Bool} {cond : Prop} [Decidable cond]
    (h : taken = true ↔ cond) :
    (s.keysSampled.skipIf taken).pc = s.pc + (if cond then 4 else 2) ∧
      (s.keysSampled.skipIf taken).fbUpdated = false ∧ (s.keysSampled.skipIf taken).samples = s.samples + 1 ∧
      Unchanged s (s.keysSampled.skipIf taken) [] [.keyInput, .sampleCount] :=
  ⟨(s.keysSampled.skipIf_of_iff h).1, rfl, rfl, (s.unchanged_keysSampled []).complete ..⟩

/-- Settles O55: one query of the key, on whose answer SKP skips and on whose negation SKNP does. -/
theorem keySkipsFollowTheSampledKey : Obligations.KeySkipsFollowTheSampledKey := by
  intro x s hreadable
  have hkey := State.keyOf_readable hreadable
  have hskp := s.keysSampled_skipIf_of_iff (Iff.refl (s.keys.getLsbD ((s.reg x).toNat % 16) = true))
  have hsknp := s.keysSampled_skipIf_of_iff (Bool.not_iff_not (b := s.keys.getLsbD ((s.reg x).toNat % 16)))
  rw [ite_not] at hsknp
  exact ⟨⟨_, exec_skp_of_keyOf hkey, hskp⟩, _, exec_sknp_of_keyOf hkey, hsknp⟩

/-- Settles O56: both queries raise, and a raise is a halt. -/
theorem keyNumberAboveFifteenHalts : Obligations.KeyNumberAboveFifteenHalts := by
  intro x s habove hfatal
  have hkey : s.keyOf (s.reg x) = none := State.keyOf_fatal hfatal (by omega)
  exact ⟨⟨_, exec_skp_of_keyOf_none hkey, s.haltedFrom_halt _ (some _) 0⟩,
    _, exec_sknp_of_keyOf_none hkey, s.haltedFrom_halt _ (some _) 0⟩

/-! ### The wait for a key -/

section
variable {s : State} (x : Reg)

theorem exec_ldVxK_of_lowestKey {k : Nat} (h : s.lowestKey = some k) :
    exec (.ldVxK x) s = .next (s.keysSampled.setReg x (BitVec.ofNat 8 k)).advance := by
  simp only [exec, execLdVxK, h]

theorem exec_ldVxK_of_no_key (h : s.keys = 0) : exec (.ldVxK x) s = .next (s.keysSampled.complete s.pc) := by
  simp only [exec, execLdVxK, State.lowestKey_eq_none.2 h]

end

/-- Settles O57: the wait ends by the search for the lowest pressed key, whose number fits a byte. -/
theorem waitForKeyTakesTheLowestOrWaits : Obligations.WaitForKeyTakesTheLowestOrWaits := by
  refine fun x s => ⟨fun k hk hpressed hlowest => ?_, fun hnone => ?_⟩
  · have hfound : s.lowestKey = some k := State.lowestKey_eq_some.2 ⟨hk, hpressed, hlowest⟩
    have hbyte : (BitVec.ofNat 8 k).toNat = k := (BitVec.toNat_ofNat ..).trans (Nat.mod_eq_of_lt (by omega))
    refine ⟨_, exec_ldVxK_of_lowestKey x hfound, ?_, rfl, rfl, rfl, ?_⟩
    · rw [State.reg_setReg_advance, hbyte]
    · exact ((s.unchanged_keysSampled [x]).setReg (List.mem_singleton_self x) _).complete ..
  · exact ⟨_, exec_ldVxK_of_no_key x hnone, rfl, rfl, rfl, (s.unchanged_keysSampled []).complete ..⟩

end Sys2Proof.Machine
end

section
/-! SUPPORT. The halted state (60_exceptions.md R202 to R210, R215): the requests that enter it, those that do
nothing in it, and the reset that leaves it. -/

namespace Sys2Proof.Machine

/-! ### The requests, by the logical state -/

section
variable {s : State}

theorem State.tickRequest_of_halted (hh : s.halted = true) : s.tickRequest = s := by
  simp [State.tickRequest, hh]

theorem State.tickRequest_of_fetching (hh : s.halted = false) :
    s.tickRequest = { s with dt := countDown s.dt, st := countDown s.st } := by
  simp [State.tickRequest, hh]

theorem State.quitRequest_of_halted (hh : s.halted = true) : s.quitRequest = s := by
  simp [State.quitRequest, hh]

theorem State.quitRequest_of_fetching (hh : s.halted = false) : s.quitRequest = s.halt .quit none 0 := by
  simp [State.quitRequest, hh]

theorem State.quitIf_of_halted (hh : s.halted = true) (b : Bool) : s.quitIf b = s := by
  cases b with
  | false => rfl
  | true => exact State.quitRequest_of_halted hh

theorem State.stepIf_of_halted (hh : s.halted = true) (b : Bool) : s.stepIf b = .next s := by
  cases b with
  | false => rfl
  | true => exact stepRequest_of_halted hh

theorem State.tickIf_of_halted (hh : s.halted = true) (b : Bool) : s.tickIf b = s := by
  cases b with
  | false => rfl
  | true => exact State.tickRequest_of_halted hh

end

/-- A tick writes the two timers alone, in either logical state (R215). -/
theorem State.tickIf_eq_setTimers (s : State) (b : Bool) : ∃ d e, s.tickIf b = { s with dt := d, st := e } := by
  cases b with
  | false => exact ⟨_, _, rfl⟩
  | true =>
    rcases Bool.eq_false_or_eq_true s.halted with hh | hh
    · exact ⟨_, _, State.tickRequest_of_halted hh⟩
    · exact ⟨_, _, State.tickRequest_of_fetching hh⟩

/-- A load writes memory and LOAD_ERR alone, in either logical state (70_reset_and_hazards.md R234). -/
theorem State.loadIf_eq_setProgram (s : State) (program : Option (List Byte)) :
    ∃ m e, s.loadIf program = { s with mem := m, loadErr := e } := by
  cases program with
  | none => exact ⟨_, _, rfl⟩
  | some bytes =>
    simp only [State.loadIf, State.loadRequest]
    split
    · exact ⟨_, _, rfl⟩
    · exact ⟨_, _, rfl⟩

@[simp] theorem State.tickIf_halted (s : State) (b : Bool) : (s.tickIf b).halted = s.halted := by
  obtain ⟨d, e, h⟩ := s.tickIf_eq_setTimers b
  rw [h]

@[simp] theorem State.tickIf_fault (s : State) (b : Bool) : (s.tickIf b).fault = s.fault := by
  obtain ⟨d, e, h⟩ := s.tickIf_eq_setTimers b
  rw [h]

@[simp] theorem State.loadIf_halted (s : State) (program : Option (List Byte)) :
    (s.loadIf program).halted = s.halted := by
  obtain ⟨m, e, h⟩ := s.loadIf_eq_setProgram program
  rw [h]

@[simp] theorem State.loadIf_fault (s : State) (program : Option (List Byte)) :
    (s.loadIf program).fault = s.fault := by
  obtain ⟨m, e, h⟩ := s.loadIf_eq_setProgram program
  rw [h]

@[simp] theorem State.setOutside_halted (s : State) (keys : BitVec 16) (rand : Byte) (rest : List Instant) :
    (s.setOutside keys rand rest).halted = s.halted := rfl

@[simp] theorem State.setOutside_fault (s : State) (keys : BitVec 16) (rand : Byte) (rest : List Instant) :
    (s.setOutside keys rand rest).fault = s.fault := rfl

/-! ### The tick -/

theorem countDown_toNat (b : Byte) : (countDown b).toNat = b.toNat - 1 := by
  unfold countDown
  split
  · next hb => rw [hb]; rfl
  · next hb => bv_omega

/-- After `n` ticks of a fetching engine, by induction on `n`: each tick takes one off both timers and stays in
fetch-next. -/
theorem State.timers_iterate_tickRequest {s : State} (n : Nat) (hh : s.halted = false) :
    ((State.tickRequest^[n]) s).dt.toNat = s.dt.toNat - n ∧
      ((State.tickRequest^[n]) s).st.toNat = s.st.toNat - n := by
  induction n generalizing s with
  | zero => exact ⟨rfl, rfl⟩
  | succ n ih =>
    rw [Function.iterate_succ_apply, State.tickRequest_of_fetching hh]
    obtain ⟨hdt, hst⟩ := ih (s := { s with dt := countDown s.dt, st := countDown s.st }) hh
    rw [hdt, hst, countDown_toNat, countDown_toNat]
    omega

/-- Settles O9: a tick of a fetching engine counts both timers down, and `n` ticks do so `n` times. -/
theorem tickCountsBothTimersDownToZero : Obligations.TickCountsBothTimersDownToZero := by
  refine ⟨fun s hh => State.tickRequest_of_halted hh, fun s hh => ?_,
    fun s n hh => State.timers_iterate_tickRequest n hh⟩
  rw [State.tickRequest_of_fetching hh]
  refine ⟨?_, ?_, rfl⟩
  · rw [countDown_toNat]; split <;> omega
  · rw [countDown_toNat]; split <;> omega

/-! ### Entering the halted state -/

/-- Settles O17: by `exec_cases` a halt has one of four causes, and an access out of range needs a byte accessed. -/
theorem onlyListedInstructionsCanHalt : Obligations.OnlyListedInstructionsCanHalt := by
  intro i s hfetching
  rcases exec_cases i s with ⟨t, ht, hkept, -⟩ | ⟨c, a, ht, hcause⟩
  · refine ⟨t, ht, fun hhalted => ?_⟩
    simp [hkept, hfetching] at hhalted
  · refine ⟨_, ht, fun _ => ?_⟩
    rcases hcause with ⟨rfl, -, -, rfl⟩ | ⟨rfl, -, -, nnn, rfl⟩ | ⟨rfl, -, hbytes, -⟩ |
      ⟨rfl, -, hfatal, x, hi, -⟩
    · rfl
    · rfl
    · cases i with
      | drw x y n => exact ⟨rfl, hbytes⟩
      | ldB | storeRegs | loadRegs => rfl
      | _ => exact absurd hbytes (Nat.not_succ_le_zero _)
    · rcases hi with rfl | rfl
      · exact ⟨rfl, hfatal⟩
      · exact ⟨rfl, hfatal⟩

/-- Settles O8: a quit of a fetching engine is a halt with cause QUIT, no word and no address. -/
theorem quitHaltsBetweenSteps : Obligations.QuitHaltsBetweenSteps := fun s keys rand rest hfetching hagenda =>
  ⟨_, step_of_lone_quit (b := true) hagenda,
    State.quitRequest_of_fetching (s := s.setOutside keys rand rest) hfetching⟩

/-! ### In the halted state -/

/-- Without a reset a halted engine performs the load of an instant and nothing else (R205; D25). -/
theorem step_of_halted {s : State} {p : Instant} {rest : List Instant} (hh : s.halted = true)
    (ha : s.agenda = p :: rest) (hr : p.reset = false) :
    step s = .next ((s.setOutside p.keys p.randByte rest).loadIf p.load) := by
  have hreset : s.resetIf p.reset = s := by rw [hr]; rfl
  have hloaded : ((s.setOutside p.keys p.randByte rest).loadIf p.load).halted = true := by
    rw [State.loadIf_halted, State.setOutside_halted, hh]
  rw [step_of_agenda_cons ha, hreset, ← State.quitIf_setOutside, ← State.loadIf_setOutside,
    State.quitIf_of_halted hloaded, State.stepIf_of_halted hloaded]
  exact congrArg _ (State.tickIf_of_halted hloaded p.tick)

/-- Settles O19: of an instant's requests a halted engine performs the load alone. -/
theorem haltedEngineIgnoresStepTickAndQuit : Obligations.HaltedEngineIgnoresStepTickAndQuit := by
  intro s hh
  refine ⟨fun hagenda => ?_, fun p rest hagenda hreset => ?_⟩
  · rw [step_of_agenda_nil hagenda, stepRequest_of_halted hh]
  · rw [step_of_halted hh hagenda hreset]
    refine ⟨fun hload => ?_, fun bytes hload => ?_⟩
    · rw [hload]; rfl
    · rw [hload]; rfl

/-- A transaction without a reset leaves all of a halted engine but memory, LOAD_ERR, the inputs and the agenda. -/
theorem eq_of_step_of_halted {s t : State} (hh : s.halted = true) (h : step s = .next t)
    (hreset : ∀ p rest, s.agenda = p :: rest → p.reset = false) :
    ∃ m e keys rand rest,
      t = { s with mem := m, loadErr := e, keys := keys, randByte := rand, agenda := rest } := by
  cases hagenda : s.agenda with
  | nil =>
    rw [step_of_agenda_nil hagenda, stepRequest_of_halted hh] at h
    cases h
    exact ⟨_, _, _, _, _, rfl⟩
  | cons p rest =>
    obtain ⟨m, e, hload⟩ := (s.setOutside p.keys p.randByte rest).loadIf_eq_setProgram p.load
    rw [step_of_halted hh hagenda (hreset p rest hagenda), hload] at h
    cases h
    exact ⟨_, _, _, _, _, rfl⟩

/-- Settles O20: without a reset all of the engine but memory and LOAD_ERR is kept; after a reset a load and a tick
leave HALTED and FAULT clear. -/
theorem haltedStateIsLeftOnlyByReset : Obligations.HaltedStateIsLeftOnlyByReset := by
  refine ⟨fun s t hh h hreset => ?_, fun s p rest hagenda hreset hquit hstep => ?_⟩
  · obtain ⟨m, e, keys, rand, rest, rfl⟩ := eq_of_step_of_halted hh h hreset
    exact ⟨hh, rfl, rfl, rfl, rfl, rfl, rfl, rfl, rfl, rfl, rfl⟩
  · have hperformed : step s =
        .next (((s.resetRequest.loadIf p.load).setOutside p.keys p.randByte rest).tickIf p.tick) := by
      rw [step_of_agenda_cons hagenda, hreset, hquit, hstep]
      rfl
    exact ⟨_, hperformed, by simp, by simp [FaultReport.clear]⟩

/-! ### The two logical states -/

/-- A step of a fetching engine ends in fetch-next or halted with a fatal cause: the halts of the fetch, of the decoding
and of the four causes of `exec_cases` are all it can meet (R202, R204, R210). -/
theorem stepRequest_of_fetching {s : State} (hh : s.halted = false) :
    ∃ t, stepRequest s = .next t ∧
      (t.halted = false ∨ t.halted = true ∧ t.fault.cause ≠ .none ∧ t.fault.cause ≠ .quit) := by
  rcases stepRequest_cases s with hhalted | ⟨-, ⟨a, hf⟩ | ⟨w, hf, hw⟩ | ⟨w, i, hf, hw⟩⟩
  · simp [hh] at hhalted
  · exact ⟨_, stepRequest_of_fetch_error hh hf, .inr (by simp)⟩
  · exact ⟨_, stepRequest_of_unmapped hh hf hw, .inr (by simp)⟩
  · rw [stepRequest_of_decoded hh hf hw]
    rcases exec_cases i s with ⟨t, ht, hkept, -⟩ | ⟨c, a, ht, hcause⟩
    · exact ⟨t, ht, .inl (hkept.trans hh)⟩
    · refine ⟨_, ht, .inr ?_⟩
      rcases hcause with ⟨rfl, -⟩ | ⟨rfl, -⟩ | ⟨rfl, -⟩ | ⟨rfl, -⟩
      all_goals simp

/-- Settles O21: each request by the logical state it meets. -/
theorem logicalStatesFollowTheStateMachine : Obligations.LogicalStatesFollowTheStateMachine := by
  refine ⟨fun s bytes hh => ?_, fun s bytes hh => ?_, fun s => ⟨rfl, rfl⟩⟩
  · refine ⟨stepRequest_of_fetching hh, ?_, ?_, (s.tickIf_halted true).trans hh,
      (s.loadIf_halted (some bytes)).trans hh⟩
    · rw [State.quitRequest_of_fetching hh, State.halt_halted]
    · rw [State.quitRequest_of_fetching hh]; rfl
  · exact ⟨stepRequest_of_halted hh, State.tickRequest_of_halted hh, State.quitRequest_of_halted hh,
      (s.loadIf_halted (some bytes)).trans hh, s.loadIf_fault (some bytes)⟩

end Sys2Proof.Machine
end

section
/-! SUPPORT. Creation, reset and load (70_reset_and_hazards.md R230 to R234): memory as created and as a load leaves it,
and the engine as a reset leaves it. -/

namespace Sys2Proof.Machine

/-! ### The load -/

section
variable {s : State} {bytes : List Byte}

theorem State.loadRequest_of_fits (h : bytes.length ≤ 3584) :
    s.loadRequest bytes = { s with mem := s.mem.setBytes 512 bytes, loadErr := false } :=
  if_neg (by simp only [Config.progBase, Config.memSize]; omega)

theorem State.loadRequest_of_too_long (h : 3584 < bytes.length) :
    s.loadRequest bytes = { s with loadErr := true } :=
  if_pos (by simp only [Config.progBase, Config.memSize]; omega)

end

namespace Memory

variable (m : Memory) (a : Nat) {b k : Nat} {xs : List Byte}

theorem get_setBytes_of_lt (h : k < xs.length) : some ((m.setBytes a xs).get (a + k)) = xs[k]? := by
  rw [get_setBytes, if_pos (by omega), Nat.add_sub_cancel_left, List.getD_eq_getElem _ _ h,
    List.getElem?_eq_getElem h]

theorem get_setBytes_of_outside (h : b < a ∨ a + xs.length ≤ b) : (m.setBytes a xs).get b = m.get b := by
  rw [get_setBytes, if_neg (by omega)]

end Memory

/-- Settles O7: a program that fits is one block write at 0x200; one that does not sets LOAD_ERR alone. -/
theorem loadWritesProgramOrRefusesWhole : Obligations.LoadWritesProgramOrRefusesWhole := by
  intro s bytes keys rand rest hagenda
  refine ⟨(s.setOutside keys rand rest).loadRequest bytes, step_of_lone_load hagenda, ?_⟩
  rcases Nat.lt_or_ge 3584 bytes.length with hlong | hfits
  · rw [State.loadRequest_of_too_long hlong]
    exact ⟨fun hfits => absurd hfits (Nat.not_le.2 hlong), fun _ => ⟨rfl, fun _ => rfl⟩, rfl⟩
  · rw [State.loadRequest_of_fits hfits]
    exact ⟨fun _ => ⟨rfl, fun _ hk => Memory.get_setBytes_of_lt _ _ hk,
      fun _ ha => Memory.get_setBytes_of_outside _ _ ha⟩, fun hlong => absurd hfits (Nat.not_le.2 hlong), rfl⟩

/-! ### The reset and the state at creation -/

theorem State.getElem_stack_resetRequest (s : State) (k : Fin 16) : s.resetRequest.stack[k] = 0 := by
  simp

/-- The state at creation is a reset state (R230, R231). -/
theorem State.resetRequest_reset : State.reset.resetRequest = State.reset := rfl

/-- Memory at creation holds 0 above the font (20_memory.md R66; D20). -/
theorem State.get_reset_mem_of_above_font {a : Nat} (h : 80 ≤ a) : State.reset.mem.get a = 0 :=
  List.getD_eq_default _ _ h

/-- Settles O6: what the reset request writes, read back part by part, and what it keeps. -/
theorem resetRequestRestoresAllButMemory : Obligations.ResetRequestRestoresAllButMemory := by
  intro s keys rand rest hagenda
  refine ⟨(s.setOutside keys rand rest).resetRequest, step_of_lone_reset (b := true) hagenda,
    State.reg_resetRequest _, rfl, rfl, rfl, State.getElem_stack_resetRequest _, rfl, rfl, Framebuffer.get_clear,
    rfl, rfl, rfl, ?mem, rfl, rfl, rfl⟩
  case mem => exact fun _ => rfl

/-- Settles O5: the engine is as a reset leaves it, and memory reads as the font and 0 above it. -/
theorem creationStateIsAsTheSpecLists : Obligations.CreationStateIsAsTheSpecLists := by
  refine ⟨?reg, rfl, rfl, rfl, ?stack, rfl, rfl, Framebuffer.get_clear, rfl, rfl, rfl, rfl,
    fun _ ha => State.get_reset_mem_of_above_font ha, ?glyphs0to7, ?glyphs8toF⟩
  case reg => rw [← State.resetRequest_reset]; exact State.reset.reg_resetRequest
  case stack => rw [← State.resetRequest_reset]; exact State.reset.getElem_stack_resetRequest
  case glyphs0to7 => decide
  case glyphs8toF => decide

end Sys2Proof.Machine
end
